-- ==== Sys2Proof/Word.lean ====
section
/-! DEFINITION. The word types of VPDEC: every value is an unsigned integer (00_scope.md R12). -/

namespace Sys2Proof

/-- A payload byte, a palette size, the run counter: 8 bits. -/
abbrev Byte := BitVec 8

/-- A colour, a width, a height, a bus offset: 16 bits (R10, R27, R75). -/
abbrev Half := BitVec 16

/-- A value on the host's bus, FRAME_SIZE, CUR_PY, CUR_RP: 32 bits (R30, R38, R39, R57). -/
abbrev Word := BitVec 32

end Sys2Proof
end

