-- ==== Sys2Proof/Config.lean ====
section
/-! DEFINITION. The implementation parameters of 00_scope.md section 3: the defaults and the ranges of the four numeric ones,
which the machine holds in its state (log 1, log 23), the three open ones (log 2), and the free value of the framebuffer
(log 3). -/

namespace Sys2Proof

/-! ## The defaults of the numeric parameters -/

/-- The default of the parameter FB_W: the framebuffer's width in pixels, the upper bound of the logical width and a
numerator of the scale formula (R7). The machine takes the parameter from `State.fbW` (log 1). -/
abbrev Config.FB_W : Nat := 384

/-- The default of the parameter FB_H: the same of the height (R7). The machine takes it from `State.fbH` (log 1). -/
abbrev Config.FB_H : Nat := 216

/-- The default of the parameter PALETTE_MAX: the capacity of the palette table and the upper bound of the palette size
(R8). The machine takes it from `State.paletteMax` (log 1). -/
abbrev Config.PALETTE_MAX : Nat := 16

/-- The default of the parameter BUFFER_MAX, the capacity of the payload buffer in bytes and the largest valid frame size
(R9, 90_conflicts.md C1). The machine takes the parameter from `State.bufferMax` (log 23). -/
abbrev Config.BUFFER_MAX : Nat := 30000

/-! ## The values they may take -/

/-- The values the parameters FB_W and FB_H may take: the positive ones with which SCALE, XOFF and YOFF fit the 16 bits that
D3 gives them. The spec states no range (DESIGN CHOICE, log 1). -/
abbrev Config.FrameSideOk (n : Nat) : Prop := 1 ≤ n ∧ n ≤ 65535

/-- The values the parameter PALETTE_MAX may take: the positive ones up to 16, the entries for which R50 has offsets and R72
an index field; the opcode table says "16 >= PALETTE_MAX" (log 1). -/
abbrev Config.PaletteMaxOk (palMax : Nat) : Prop := 1 ≤ palMax ∧ palMax ≤ 16

/-- The values the parameter BUFFER_MAX may take: "`2 <= BUFFER_MAX <= 32768`" (R9). -/
abbrev Config.BufferMaxOk (bufMax : Nat) : Prop := 2 ≤ bufMax ∧ bufMax ≤ 32768

/-! ## The open parameters and the free value -/

/-- The two byte orders a pixel may have when the display's memory is seen as bytes (R11, R56). -/
inductive ByteOrder where
  | big
  | little
  deriving DecidableEq, Repr, Inhabited

/-- The bus address of the register block: an open parameter of the platform, no value is chosen (R11, D15, log 2). -/
opaque Config.VP_BASE : Nat

/-- The byte address of framebuffer pixel (0,0): an open parameter of the platform (R11, R51, D14, log 2). -/
opaque Config.FB_BASE : Nat

/-- The byte order of a pixel in the byte view of the framebuffer: an open parameter (R11, R56, D14, log 2). -/
opaque Config.FB_BYTE_ORDER : ByteOrder

/-- FREE VALUE: what framebuffer pixel number `n` shows before anything has written it since power-on.
"Any value" (R45, D13, 93_implementation_defined.md I3, log 3). No step reads it. -/
opaque Config.displayPixel : Nat → Half

end Sys2Proof
end

