-- ==== Sys2Proof/Syntax.lean ====
section
/-! DEFINITION. The syntax of VPDEC's two classes of operation (00_scope.md R3): the RLE runs of the payload and the
host's bus operations. One constructor per mnemonic of spec/opcode_table.json; its five SKIP rows are five bit patterns
of the one instruction SKIP (R72). -/

namespace Sys2Proof

/-- The direction field of a bus transaction: `dir = 0` reads, `dir = 1` writes (30_encoding.md R75). -/
inductive Dir where
  | read
  | write
  deriving DecidableEq, Repr

/-- One bus transaction with the four fields of 30_encoding.md R75. `wid` is the width code (0: 8 bits, 1: 16 bits,
2: 32 bits, 3: no width). `data` is present on a write; an 8-bit write uses its low 8 bits. -/
structure Txn where
  wid : BitVec 2
  dir : Dir
  off : Half
  data : Word
  deriving DecidableEq, Repr

/-- The sixteen registers of 10_state.md section 2, in the order of their offsets 0x000, 0x004, ..., 0x03C. -/
inductive Reg where
  | ctrl | status | cfgWidth | cfgHeight | cfgPalSize | frameSize | actWidth | actHeight
  | actPalSize | scale | xoff | yoff | curPx | curPy | curRp | curRun
  deriving DecidableEq, Repr

/-- The instructions of VPDEC. The CTRL writes carry `data[31:2]`, which is ignored (R77); reads carry no data; the
transactions that R57 does not admit carry what the opcode table gives them, direction and offset. -/
inductive Instr where
  -- the payload's runs: count and palette index (R106, R107)
  | run (count index : Byte)
  | skip (count index : Byte)
  -- the command writes (R97, R98, R99)
  | ctrlNop (ignored : BitVec 30)
  | commit (ignored : BitVec 30)
  | start (ignored : BitVec 30)
  | commitStart (ignored : BitVec 30)
  -- CTRL and STATUS (R84, R85, R95)
  | rdCtrl
  | rdStatus
  | wrStatus (data : Word)
  -- the configuration registers (R83, R89 to R92)
  | rdCfgWidth
  | wrCfgWidth (data : Word)
  | rdCfgHeight
  | wrCfgHeight (data : Word)
  | rdCfgPalSize
  | wrCfgPalSize (data : Word)
  | rdFrameSize
  | wrFrameSize (data : Word)
  -- the read-only registers (R83, R96)
  | rdActWidth
  | wrActWidth (data : Word)
  | rdActHeight
  | wrActHeight (data : Word)
  | rdActPalSize
  | wrActPalSize (data : Word)
  | rdScale
  | wrScale (data : Word)
  | rdXoff
  | wrXoff (data : Word)
  | rdYoff
  | wrYoff (data : Word)
  | rdCurPx
  | wrCurPx (data : Word)
  | rdCurPy
  | wrCurPy (data : Word)
  | rdCurRp
  | wrCurRp (data : Word)
  | rdCurRun
  | wrCurRun (data : Word)
  -- the palette table (R86, R93)
  | rdPal (i : BitVec 4)
  | wrPal (i : BitVec 4) (data : Word)
  -- the reserved 32-bit locations (R88, R96)
  | rdRsvd (off : Half)
  | wrRsvd (off : Half) (data : Word)
  -- the payload window (R87, R94) and its reserved bytes (R88, R96)
  | rdbBuf (j : BitVec 15)
  | wrbBuf (j : BitVec 15) (data : Byte)
  | rdbRsvd (off : Half)
  | wrbRsvd (off : Half) (data : Byte)
  -- the accesses R57 does not admit
  | hostFaultW16 (dir : Dir) (off : Half)
  | hostFaultW3 (dir : Dir) (off : Half)
  | hostFaultMisaligned (dir : Dir) (off : Half)
  | hostFaultW32High (dir : Dir) (off : Half)
  | hostFaultW8Low (dir : Dir) (off : Half)
  deriving DecidableEq, Repr

/-- What an instruction is encoded as: a run's 16-bit word RLE16 (R70), or a bus transaction (R75). -/
inductive Code where
  | rle (w : BitVec 16)
  | bus (t : Txn)
  deriving DecidableEq, Repr

end Sys2Proof
end

