-- ==== Sys2Proof/WellFormed.lean ====
section
/-! DEFINITION. Which terms of `Instr` are instructions: the conditions the opcode table puts on operands. -/

namespace Sys2Proof

/-- The operand conditions of spec/opcode_table.json that the operand types do not already carry:
a RUN's index has `RLE16[7:4] = 0` (R72); a reserved offset, a payload index and a not-admitted offset lie where
20_memory.md R50 and R57 put them, for a payload buffer of `bufMax` bytes (R9). -/
def Instr.wf (bufMax : Nat) : Instr → Bool
  | .run _ i => decide (i.toNat < 16)
  | .rdRsvd off => decide (0x80 ≤ off.toNat) && decide (off.toNat < 0x8000) && decide (off.toNat % 4 = 0)
  | .wrRsvd off _ => decide (0x80 ≤ off.toNat) && decide (off.toNat < 0x8000) && decide (off.toNat % 4 = 0)
  | .rdbBuf j => decide (j.toNat < bufMax)
  | .wrbBuf j _ => decide (j.toNat < bufMax)
  | .rdbRsvd off => decide (0x8000 + bufMax ≤ off.toNat)
  | .wrbRsvd off _ => decide (0x8000 + bufMax ≤ off.toNat)
  | .hostFaultMisaligned _ off => decide (off.toNat < 0x8000) && decide (off.toNat % 4 ≠ 0)
  | .hostFaultW32High _ off => decide (0x8000 ≤ off.toNat)
  | .hostFaultW8Low _ off => decide (off.toNat < 0x8000)
  | .skip _ _ | .ctrlNop _ | .commit _ | .start _ | .commitStart _ | .rdCtrl | .rdStatus | .wrStatus _
  | .rdCfgWidth | .wrCfgWidth _ | .rdCfgHeight | .wrCfgHeight _ | .rdCfgPalSize | .wrCfgPalSize _
  | .rdFrameSize | .wrFrameSize _ | .rdActWidth | .wrActWidth _ | .rdActHeight | .wrActHeight _
  | .rdActPalSize | .wrActPalSize _ | .rdScale | .wrScale _ | .rdXoff | .wrXoff _ | .rdYoff | .wrYoff _
  | .rdCurPx | .wrCurPx _ | .rdCurPy | .wrCurPy _ | .rdCurRp | .wrCurRp _ | .rdCurRun | .wrCurRun _
  | .rdPal _ | .wrPal _ _ | .hostFaultW16 _ _ | .hostFaultW3 _ _ => true

/-- Whether a run's index is on the side of the committed palette size that its constructor says: the decode of a run
"depends on the committed state ACT_PALSIZE, like a mode bit" (R72). Bus operations fit every palette size. -/
def Instr.fits (palSize : Byte) : Instr → Bool
  | .run _ i => decide (i.toNat < palSize.toNat)
  | .skip _ i => decide (palSize.toNat ≤ i.toNat)
  | .ctrlNop _ | .commit _ | .start _ | .commitStart _ | .rdCtrl | .rdStatus | .wrStatus _
  | .rdCfgWidth | .wrCfgWidth _ | .rdCfgHeight | .wrCfgHeight _ | .rdCfgPalSize | .wrCfgPalSize _
  | .rdFrameSize | .wrFrameSize _ | .rdActWidth | .wrActWidth _ | .rdActHeight | .wrActHeight _
  | .rdActPalSize | .wrActPalSize _ | .rdScale | .wrScale _ | .rdXoff | .wrXoff _ | .rdYoff | .wrYoff _
  | .rdCurPx | .wrCurPx _ | .rdCurPy | .wrCurPy _ | .rdCurRp | .wrCurRp _ | .rdCurRun | .wrCurRun _
  | .rdPal _ | .wrPal _ _ | .rdRsvd _ | .wrRsvd _ _ | .rdbBuf _ | .wrbBuf _ _ | .rdbRsvd _ | .wrbRsvd _ _
  | .hostFaultW16 _ _ | .hostFaultW3 _ _ | .hostFaultMisaligned _ _ | .hostFaultW32High _ _
  | .hostFaultW8Low _ _ => true

/-- Whether an instruction is a bus operation of the host, not a run of the payload (R3). -/
def Instr.isBus : Instr → Bool
  | .run _ _ | .skip _ _ => false
  | .ctrlNop _ | .commit _ | .start _ | .commitStart _ | .rdCtrl | .rdStatus | .wrStatus _
  | .rdCfgWidth | .wrCfgWidth _ | .rdCfgHeight | .wrCfgHeight _ | .rdCfgPalSize | .wrCfgPalSize _
  | .rdFrameSize | .wrFrameSize _ | .rdActWidth | .wrActWidth _ | .rdActHeight | .wrActHeight _
  | .rdActPalSize | .wrActPalSize _ | .rdScale | .wrScale _ | .rdXoff | .wrXoff _ | .rdYoff | .wrYoff _
  | .rdCurPx | .wrCurPx _ | .rdCurPy | .wrCurPy _ | .rdCurRp | .wrCurRp _ | .rdCurRun | .wrCurRun _
  | .rdPal _ | .wrPal _ _ | .rdRsvd _ | .wrRsvd _ _ | .rdbBuf _ | .wrbBuf _ _ | .rdbRsvd _ | .wrbRsvd _ _
  | .hostFaultW16 _ _ | .hostFaultW3 _ _ | .hostFaultMisaligned _ _ | .hostFaultW32High _ _
  | .hostFaultW8Low _ _ => true

end Sys2Proof
end

