-- ==== Sys2Proof/Decode.lean ====
section
/-! DEFINITION. The decoder of a run (30_encoding.md R70 to R74) and of a bus transaction (R75 to R77), both total, the
encoder of both, and the rows of spec/opcode_table.json that the decoder is held against. -/

namespace Sys2Proof

/-! ## The transaction key -/

/-- The direction bit of the key (R75). -/
def Dir.bit : Dir → BitVec 1
  | .read => 0
  | .write => 1

/-- The direction a bit of the key stands for (R75). -/
def Dir.ofBit (b : BitVec 1) : Dir :=
  if b = 1 then .write else .read

/-- The 19-bit key `wid ++ dir ++ off` of a transaction (R75). -/
def Txn.key (t : Txn) : BitVec 19 :=
  t.wid ++ (t.dir.bit ++ t.off)

/-- The transaction with a given key and data (R75). -/
def Txn.ofKey (key : BitVec 19) (data : Word) : Txn where
  wid := key.extractLsb' 17 2
  dir := Dir.ofBit (key.extractLsb' 16 1)
  off := key.extractLsb' 0 16
  data := data

/-! ## Registers by offset -/

/-- The register at offset `4*i` of 0x000..0x03C (10_state.md section 2). -/
def Reg.ofIndex (i : BitVec 4) : Reg :=
  match i.toNat with
  | 0 => .ctrl
  | 1 => .status
  | 2 => .cfgWidth
  | 3 => .cfgHeight
  | 4 => .cfgPalSize
  | 5 => .frameSize
  | 6 => .actWidth
  | 7 => .actHeight
  | 8 => .actPalSize
  | 9 => .scale
  | 10 => .xoff
  | 11 => .yoff
  | 12 => .curPx
  | 13 => .curPy
  | 14 => .curRp
  | _ => .curRun

/-- A register's offset from VP_BASE (10_state.md R18, R19, R27 to R40). -/
def Reg.offset : Reg → Half
  | .ctrl => 0x000
  | .status => 0x004
  | .cfgWidth => 0x008
  | .cfgHeight => 0x00C
  | .cfgPalSize => 0x010
  | .frameSize => 0x014
  | .actWidth => 0x018
  | .actHeight => 0x01C
  | .actPalSize => 0x020
  | .scale => 0x024
  | .xoff => 0x028
  | .yoff => 0x02C
  | .curPx => 0x030
  | .curPy => 0x034
  | .curRp => 0x038
  | .curRun => 0x03C

/-- The offset of `PAL[i]`, `0x040 + 4*i` (R76). -/
def palOffset (i : BitVec 4) : Half :=
  0x040 + (i.setWidth 16 <<< 2)

/-- The offset of `BUF[j]`, `0x8000 + j` (R76). -/
def bufOffset (j : BitVec 15) : Half :=
  0x8000 + j.setWidth 16

/-! ## Decoding a run -/

/-- A run `(count, paletteIndex)` is a RUN when its index is below the committed palette size, and a SKIP otherwise
(R72). Every pair decodes (R73). -/
def decodeRun (palSize count index : Byte) : Instr :=
  if index.toNat < palSize.toNat then .run count index else .skip count index

/-- Why a payload's bytes do not decode: they hold no whole run (R70, R74). -/
inductive PayloadReject where
  /-- There is no byte left. -/
  | noRunLeft
  /-- One byte is left: a count without its index. -/
  | halfRun
  deriving DecidableEq, Repr

/-- The next run of a payload, its count byte first (20_memory.md R54), and the bytes after it. -/
def decodeBytes (palSize : Byte) : List Byte → Except PayloadReject (Instr × List Byte)
  | [] => .error .noRunLeft
  | [_] => .error .halfRun
  | count :: index :: rest => .ok (decodeRun palSize count index, rest)

/-! ## Decoding a bus transaction -/

/-- A 32-bit write at offset 0x000 is one of the four commands by `data[1:0]` (R77, R97). -/
def decodeCommand (data : Word) : Instr :=
  let ignored := data.extractLsb' 2 30
  match (data.extractLsb' 0 2).toNat with
  | 0 => .ctrlNop ignored
  | 1 => .commit ignored
  | 2 => .start ignored
  | _ => .commitStart ignored

/-- A 32-bit read of a register (R76). -/
def decodeRegRead : Reg → Instr
  | .ctrl => .rdCtrl
  | .status => .rdStatus
  | .cfgWidth => .rdCfgWidth
  | .cfgHeight => .rdCfgHeight
  | .cfgPalSize => .rdCfgPalSize
  | .frameSize => .rdFrameSize
  | .actWidth => .rdActWidth
  | .actHeight => .rdActHeight
  | .actPalSize => .rdActPalSize
  | .scale => .rdScale
  | .xoff => .rdXoff
  | .yoff => .rdYoff
  | .curPx => .rdCurPx
  | .curPy => .rdCurPy
  | .curRp => .rdCurRp
  | .curRun => .rdCurRun

/-- A 32-bit write of a register (R76). -/
def decodeRegWrite (r : Reg) (data : Word) : Instr :=
  match r with
  | .ctrl => decodeCommand data
  | .status => .wrStatus data
  | .cfgWidth => .wrCfgWidth data
  | .cfgHeight => .wrCfgHeight data
  | .cfgPalSize => .wrCfgPalSize data
  | .frameSize => .wrFrameSize data
  | .actWidth => .wrActWidth data
  | .actHeight => .wrActHeight data
  | .actPalSize => .wrActPalSize data
  | .scale => .wrScale data
  | .xoff => .wrXoff data
  | .yoff => .wrYoff data
  | .curPx => .wrCurPx data
  | .curPy => .wrCurPy data
  | .curRp => .wrCurRp data
  | .curRun => .wrCurRun data

/-- An 8-bit access: not admitted below 0x8000; the payload window of `bufMax` bytes and its reserved bytes above (R9, R50,
R57, R76). -/
def decodeByteAccess (bufMax : Nat) (dir : Dir) (off : Half) (data : Word) : Instr :=
  let j : BitVec 15 := off.extractLsb' 0 15
  if off.toNat < 0x8000 then .hostFaultW8Low dir off
  else if j.toNat < bufMax then
    match dir with
    | .read => .rdbBuf j
    | .write => .wrbBuf j (data.extractLsb' 0 8)
  else
    match dir with
    | .read => .rdbRsvd off
    | .write => .wrbRsvd off (data.extractLsb' 0 8)

/-- A 32-bit access: not admitted at or above 0x8000 or off a multiple of 4; the registers, the palette table and the
reserved locations below (R50, R57, R76). -/
def decodeWordAccess (dir : Dir) (off : Half) (data : Word) : Instr :=
  if 0x8000 ≤ off.toNat then .hostFaultW32High dir off
  else if off.toNat % 4 ≠ 0 then .hostFaultMisaligned dir off
  else if off.toNat < 0x40 then
    match dir with
    | .read => decodeRegRead (Reg.ofIndex (off.extractLsb' 2 4))
    | .write => decodeRegWrite (Reg.ofIndex (off.extractLsb' 2 4)) data
  else if off.toNat < 0x80 then
    match dir with
    | .read => .rdPal (off.extractLsb' 2 4)
    | .write => .wrPal (off.extractLsb' 2 4) data
  else
    match dir with
    | .read => .rdRsvd off
    | .write => .wrRsvd off data

/-- Every bus transaction is one host operation, or an access that R57 does not admit, for a payload buffer of
`bufMax` bytes (R75, R76). -/
def decodeTxn (bufMax : Nat) (t : Txn) : Instr :=
  match t.wid.toNat with
  | 0 => decodeByteAccess bufMax t.dir t.off t.data
  | 1 => .hostFaultW16 t.dir t.off
  | 2 => decodeWordAccess t.dir t.off t.data
  | _ => .hostFaultW3 t.dir t.off

/-- The instruction a code stands for, for a payload buffer of `bufMax` bytes, while the committed palette size is
`palSize`. -/
def decode (bufMax : Nat) (palSize : Byte) : Code → Instr
  | .rle w => decodeRun palSize (w.extractLsb' 8 8) (w.extractLsb' 0 8)
  | .bus t => decodeTxn bufMax t

/-! ## Encoding -/

/-- The word RLE16 of a run, `count ++ paletteIndex` (R70). -/
def rle16 (count index : Byte) : BitVec 16 :=
  count ++ index

/-- A 32-bit read at an offset (R75). -/
def Txn.read32 (off : Half) : Txn := ⟨2, .read, off, 0⟩

/-- A 32-bit write at an offset (R75). -/
def Txn.write32 (off : Half) (data : Word) : Txn := ⟨2, .write, off, data⟩

/-- An 8-bit read at an offset (R75). -/
def Txn.read8 (off : Half) : Txn := ⟨0, .read, off, 0⟩

/-- An 8-bit write at an offset (R75). -/
def Txn.write8 (off : Half) (data : Byte) : Txn := ⟨0, .write, off, data.setWidth 32⟩

/-- A command write: `data[31:2]` is ignored, `data[0]` is COMMIT and `data[1]` is START (R77). -/
def Txn.command (ignored : BitVec 30) (cmd : BitVec 2) : Txn :=
  .write32 Reg.ctrl.offset (ignored ++ cmd)

/-- The code of an instruction, from the same encodings (R70, R75 to R77). -/
def encode : Instr → Code
  | .run c i => .rle (rle16 c i)
  | .skip c i => .rle (rle16 c i)
  | .ctrlNop ig => .bus (.command ig 0)
  | .commit ig => .bus (.command ig 1)
  | .start ig => .bus (.command ig 2)
  | .commitStart ig => .bus (.command ig 3)
  | .rdCtrl => .bus (.read32 Reg.ctrl.offset)
  | .rdStatus => .bus (.read32 Reg.status.offset)
  | .wrStatus d => .bus (.write32 Reg.status.offset d)
  | .rdCfgWidth => .bus (.read32 Reg.cfgWidth.offset)
  | .wrCfgWidth d => .bus (.write32 Reg.cfgWidth.offset d)
  | .rdCfgHeight => .bus (.read32 Reg.cfgHeight.offset)
  | .wrCfgHeight d => .bus (.write32 Reg.cfgHeight.offset d)
  | .rdCfgPalSize => .bus (.read32 Reg.cfgPalSize.offset)
  | .wrCfgPalSize d => .bus (.write32 Reg.cfgPalSize.offset d)
  | .rdFrameSize => .bus (.read32 Reg.frameSize.offset)
  | .wrFrameSize d => .bus (.write32 Reg.frameSize.offset d)
  | .rdActWidth => .bus (.read32 Reg.actWidth.offset)
  | .wrActWidth d => .bus (.write32 Reg.actWidth.offset d)
  | .rdActHeight => .bus (.read32 Reg.actHeight.offset)
  | .wrActHeight d => .bus (.write32 Reg.actHeight.offset d)
  | .rdActPalSize => .bus (.read32 Reg.actPalSize.offset)
  | .wrActPalSize d => .bus (.write32 Reg.actPalSize.offset d)
  | .rdScale => .bus (.read32 Reg.scale.offset)
  | .wrScale d => .bus (.write32 Reg.scale.offset d)
  | .rdXoff => .bus (.read32 Reg.xoff.offset)
  | .wrXoff d => .bus (.write32 Reg.xoff.offset d)
  | .rdYoff => .bus (.read32 Reg.yoff.offset)
  | .wrYoff d => .bus (.write32 Reg.yoff.offset d)
  | .rdCurPx => .bus (.read32 Reg.curPx.offset)
  | .wrCurPx d => .bus (.write32 Reg.curPx.offset d)
  | .rdCurPy => .bus (.read32 Reg.curPy.offset)
  | .wrCurPy d => .bus (.write32 Reg.curPy.offset d)
  | .rdCurRp => .bus (.read32 Reg.curRp.offset)
  | .wrCurRp d => .bus (.write32 Reg.curRp.offset d)
  | .rdCurRun => .bus (.read32 Reg.curRun.offset)
  | .wrCurRun d => .bus (.write32 Reg.curRun.offset d)
  | .rdPal i => .bus (.read32 (palOffset i))
  | .wrPal i d => .bus (.write32 (palOffset i) d)
  | .rdRsvd off => .bus (.read32 off)
  | .wrRsvd off d => .bus (.write32 off d)
  | .rdbBuf j => .bus (.read8 (bufOffset j))
  | .wrbBuf j d => .bus (.write8 (bufOffset j) d)
  | .rdbRsvd off => .bus (.read8 off)
  | .wrbRsvd off d => .bus (.write8 off d)
  | .hostFaultW16 dir off => .bus ⟨1, dir, off, 0⟩
  | .hostFaultW3 dir off => .bus ⟨3, dir, off, 0⟩
  | .hostFaultMisaligned dir off => .bus ⟨2, dir, off, 0⟩
  | .hostFaultW32High dir off => .bus ⟨2, dir, off, 0⟩
  | .hostFaultW8Low dir off => .bus ⟨0, dir, off, 0⟩

/-! ## Words as spec/opcode_table.json numbers them -/

/-- The payload bytes of an RLE16 word, in the order the payload holds them: count, the word's high byte, first (R70). -/
def tableRunBytes (w : Nat) : List Byte :=
  [BitVec.ofNat 8 (w / 256), BitVec.ofNat 8 w]

/-- The bus transaction of a table word: the key in bits 18:0; the data, to which the table gives no bits, from bit 24 on
(log 11). -/
def tableTxn (w : Nat) : Txn :=
  Txn.ofKey (BitVec.ofNat 19 w) (BitVec.ofNat 32 (w / 2 ^ 24))

/-- The committed palette size under which a table word is read as a run: as many colours as there are palette entries
(log 12). -/
def tablePalSize (palMax : Nat) : Byte := BitVec.ofNat 8 palMax

/-- What the decoder reads from a word of the opcode table, for a palette of `palMax` entries and a payload buffer of
`bufMax` bytes: RLE16 rows have 16 bits, bus keys 19 (log 11, log 12). -/
def decodeTableWordFor (palMax bufMax nbits w : Nat) : Option Instr :=
  if nbits ≤ 16 then
    match decodeBytes (tablePalSize palMax) (tableRunBytes w) with
    | .ok (i, _) => some i
    | .error _ => none
  else some (decodeTxn bufMax (tableTxn w))

/-- What the decoder reads from a word of the opcode table at the default PALETTE_MAX and BUFFER_MAX (R8, R9). -/
def decodeTableWord (nbits w : Nat) : Option Instr :=
  decodeTableWordFor Config.PALETTE_MAX Config.BUFFER_MAX nbits w

/-! ## The opcode table itself -/

/-- The mnemonic of an instruction, as spec/opcode_table.json spells it. -/
def Instr.mnemonic : Instr → String
  | .run _ _ => "RUN"
  | .skip _ _ => "SKIP"
  | .ctrlNop _ => "CTRL_NOP"
  | .commit _ => "COMMIT"
  | .start _ => "START"
  | .commitStart _ => "COMMIT_START"
  | .rdCtrl => "RD_CTRL"
  | .rdStatus => "RD_STATUS"
  | .wrStatus _ => "WR_STATUS"
  | .rdCfgWidth => "RD_CFG_WIDTH"
  | .wrCfgWidth _ => "WR_CFG_WIDTH"
  | .rdCfgHeight => "RD_CFG_HEIGHT"
  | .wrCfgHeight _ => "WR_CFG_HEIGHT"
  | .rdCfgPalSize => "RD_CFG_PALSIZE"
  | .wrCfgPalSize _ => "WR_CFG_PALSIZE"
  | .rdFrameSize => "RD_FRAME_SIZE"
  | .wrFrameSize _ => "WR_FRAME_SIZE"
  | .rdActWidth => "RD_ACT_WIDTH"
  | .wrActWidth _ => "WR_ACT_WIDTH"
  | .rdActHeight => "RD_ACT_HEIGHT"
  | .wrActHeight _ => "WR_ACT_HEIGHT"
  | .rdActPalSize => "RD_ACT_PALSIZE"
  | .wrActPalSize _ => "WR_ACT_PALSIZE"
  | .rdScale => "RD_SCALE"
  | .wrScale _ => "WR_SCALE"
  | .rdXoff => "RD_XOFF"
  | .wrXoff _ => "WR_XOFF"
  | .rdYoff => "RD_YOFF"
  | .wrYoff _ => "WR_YOFF"
  | .rdCurPx => "RD_CUR_PX"
  | .wrCurPx _ => "WR_CUR_PX"
  | .rdCurPy => "RD_CUR_PY"
  | .wrCurPy _ => "WR_CUR_PY"
  | .rdCurRp => "RD_CUR_RP"
  | .wrCurRp _ => "WR_CUR_RP"
  | .rdCurRun => "RD_CUR_RUN"
  | .wrCurRun _ => "WR_CUR_RUN"
  | .rdPal _ => "RD_PAL"
  | .wrPal _ _ => "WR_PAL"
  | .rdRsvd _ => "RD_RSVD"
  | .wrRsvd _ _ => "WR_RSVD"
  | .rdbBuf _ => "RDB_BUF"
  | .wrbBuf _ _ => "WRB_BUF"
  | .rdbRsvd _ => "RDB_RSVD"
  | .wrbRsvd _ _ => "WRB_RSVD"
  | .hostFaultW16 _ _ => "HOSTFAULT_W16"
  | .hostFaultW3 _ _ => "HOSTFAULT_W3"
  | .hostFaultMisaligned _ _ => "HOSTFAULT_MISALIGNED"
  | .hostFaultW32High _ _ => "HOSTFAULT_W32_HIGH"
  | .hostFaultW8Low _ _ => "HOSTFAULT_W8_LOW"

/-- The conditions a row of the table may add to its bit pattern. -/
inductive RowCondition where
  /-- None. -/
  | always
  /-- "index < ACT_PALSIZE". -/
  | belowPalSize
  /-- "index >= ACT_PALSIZE". -/
  | fromPalSize
  /-- "0x080 <= off <= 0x7FFC". -/
  | reserved32
  /-- "off - 0x8000 < BUFFER_MAX". -/
  | inBuffer
  /-- "off - 0x8000 >= BUFFER_MAX". -/
  | pastBuffer
  /-- "off mod 4 != 0". -/
  | misaligned
  deriving DecidableEq, Repr

/-- A row of the table in format BUS: `key & mask = match`, and, for CTRL writes, `data & 3 = data` (R75). -/
structure BusRow where
  mnemonic : String
  value : Nat
  mask : Nat
  data : Option Nat
  condition : RowCondition
  deriving DecidableEq, Repr

/-- A row of the table in format RLE16: `RLE16 & mask = match`. -/
structure RleRow where
  mnemonic : String
  value : Nat
  mask : Nat
  condition : RowCondition
  deriving DecidableEq, Repr

/-- Whether a row's condition holds of a buffer capacity, a palette size, a palette index and a bus offset. -/
def RowCondition.holds (bufMax palSize index off : Nat) : RowCondition → Bool
  | .always => true
  | .belowPalSize => decide (index < palSize)
  | .fromPalSize => decide (palSize ≤ index)
  | .reserved32 => decide (0x80 ≤ off) && decide (off ≤ 0x7FFC)
  | .inBuffer => decide (off - 0x8000 < bufMax)
  | .pastBuffer => decide (bufMax ≤ off - 0x8000)
  | .misaligned => decide (off % 4 ≠ 0)

/-- Whether a bus row matches a transaction, for a payload buffer of `bufMax` bytes (R75). -/
def BusRow.hits (r : BusRow) (bufMax : Nat) (t : Txn) : Bool :=
  decide (t.key.toNat &&& r.mask = r.value)
    && (match r.data with
        | none => true
        | some d => decide (t.data.toNat &&& 3 = d))
    && r.condition.holds bufMax 0 0 t.off.toNat

/-- Whether a run row matches a run's word while the committed palette size is `palSize` (R72). -/
def RleRow.hits (r : RleRow) (palSize : Byte) (w : BitVec 16) : Bool :=
  decide (w.toNat &&& r.mask = r.value)
    && r.condition.holds 0 palSize.toNat (w.extractLsb' 0 8).toNat 0

/-- The table's rows for runs. -/
def rleRows : List RleRow :=
  [ ⟨"RUN", 0x0, 0xf0, .belowPalSize⟩,
    ⟨"SKIP", 0x0, 0xf0, .fromPalSize⟩,
    ⟨"SKIP", 0x80, 0x80, .always⟩,
    ⟨"SKIP", 0x40, 0xc0, .always⟩,
    ⟨"SKIP", 0x20, 0xe0, .always⟩,
    ⟨"SKIP", 0x10, 0xf0, .always⟩ ]

/-- Rows of spec/opcode_table.json for the commands, STATUS and the configuration registers, as the table has them. -/
def busRowsCommands : List BusRow :=
  [ ⟨"CTRL_NOP", 0x50000, 0x7ffff, some 0, .always⟩,
    ⟨"COMMIT", 0x50000, 0x7ffff, some 1, .always⟩,
    ⟨"START", 0x50000, 0x7ffff, some 2, .always⟩,
    ⟨"COMMIT_START", 0x50000, 0x7ffff, some 3, .always⟩,
    ⟨"RD_CTRL", 0x40000, 0x7ffff, none, .always⟩,
    ⟨"RD_STATUS", 0x40004, 0x7ffff, none, .always⟩,
    ⟨"WR_STATUS", 0x50004, 0x7ffff, none, .always⟩,
    ⟨"RD_CFG_WIDTH", 0x40008, 0x7ffff, none, .always⟩,
    ⟨"WR_CFG_WIDTH", 0x50008, 0x7ffff, none, .always⟩,
    ⟨"RD_CFG_HEIGHT", 0x4000c, 0x7ffff, none, .always⟩,
    ⟨"WR_CFG_HEIGHT", 0x5000c, 0x7ffff, none, .always⟩,
    ⟨"RD_CFG_PALSIZE", 0x40010, 0x7ffff, none, .always⟩,
    ⟨"WR_CFG_PALSIZE", 0x50010, 0x7ffff, none, .always⟩,
    ⟨"RD_FRAME_SIZE", 0x40014, 0x7ffff, none, .always⟩,
    ⟨"WR_FRAME_SIZE", 0x50014, 0x7ffff, none, .always⟩ ]

/-- Rows for the read-only registers. -/
def busRowsReadOnly : List BusRow :=
  [ ⟨"RD_ACT_WIDTH", 0x40018, 0x7ffff, none, .always⟩,
    ⟨"WR_ACT_WIDTH", 0x50018, 0x7ffff, none, .always⟩,
    ⟨"RD_ACT_HEIGHT", 0x4001c, 0x7ffff, none, .always⟩,
    ⟨"WR_ACT_HEIGHT", 0x5001c, 0x7ffff, none, .always⟩,
    ⟨"RD_ACT_PALSIZE", 0x40020, 0x7ffff, none, .always⟩,
    ⟨"WR_ACT_PALSIZE", 0x50020, 0x7ffff, none, .always⟩,
    ⟨"RD_SCALE", 0x40024, 0x7ffff, none, .always⟩,
    ⟨"WR_SCALE", 0x50024, 0x7ffff, none, .always⟩,
    ⟨"RD_XOFF", 0x40028, 0x7ffff, none, .always⟩,
    ⟨"WR_XOFF", 0x50028, 0x7ffff, none, .always⟩,
    ⟨"RD_YOFF", 0x4002c, 0x7ffff, none, .always⟩,
    ⟨"WR_YOFF", 0x5002c, 0x7ffff, none, .always⟩,
    ⟨"RD_CUR_PX", 0x40030, 0x7ffff, none, .always⟩,
    ⟨"WR_CUR_PX", 0x50030, 0x7ffff, none, .always⟩,
    ⟨"RD_CUR_PY", 0x40034, 0x7ffff, none, .always⟩,
    ⟨"WR_CUR_PY", 0x50034, 0x7ffff, none, .always⟩,
    ⟨"RD_CUR_RP", 0x40038, 0x7ffff, none, .always⟩,
    ⟨"WR_CUR_RP", 0x50038, 0x7ffff, none, .always⟩,
    ⟨"RD_CUR_RUN", 0x4003c, 0x7ffff, none, .always⟩,
    ⟨"WR_CUR_RUN", 0x5003c, 0x7ffff, none, .always⟩ ]

/-- Rows for the tables, the reserved locations and the accesses that are not admitted. -/
def busRowsMemory : List BusRow :=
  [ ⟨"RD_PAL", 0x40040, 0x7ffc3, none, .always⟩,
    ⟨"WR_PAL", 0x50040, 0x7ffc3, none, .always⟩,
    ⟨"RD_RSVD", 0x40000, 0x78003, none, .reserved32⟩,
    ⟨"WR_RSVD", 0x50000, 0x78003, none, .reserved32⟩,
    ⟨"RDB_BUF", 0x8000, 0x78000, none, .inBuffer⟩,
    ⟨"WRB_BUF", 0x18000, 0x78000, none, .inBuffer⟩,
    ⟨"RDB_RSVD", 0x8000, 0x78000, none, .pastBuffer⟩,
    ⟨"WRB_RSVD", 0x18000, 0x78000, none, .pastBuffer⟩,
    ⟨"HOSTFAULT_W16", 0x20000, 0x60000, none, .always⟩,
    ⟨"HOSTFAULT_W3", 0x60000, 0x60000, none, .always⟩,
    ⟨"HOSTFAULT_MISALIGNED", 0x40000, 0x68000, none, .misaligned⟩,
    ⟨"HOSTFAULT_W32_HIGH", 0x48000, 0x68000, none, .always⟩,
    ⟨"HOSTFAULT_W8_LOW", 0x0, 0x68000, none, .always⟩ ]

/-- The table's rows for bus transactions. -/
def busRows : List BusRow :=
  busRowsCommands ++ busRowsReadOnly ++ busRowsMemory

end Sys2Proof
end

