-- ==== Sys2Proof/Machine/State.lean ====
section
/-! DEFINITION. The state of VPDEC as plain data (10_state.md), the two model-level faults (60_exceptions.md R134), and
the state after reset (70_reset_and_hazards.md R146). -/

namespace Sys2Proof.Machine

/-- The outcome of the last START, STATUS.RESULT (R23, R128). The reserved codes 5 to 15 are never produced and are
left out (93_implementation_defined.md I11, log 16). -/
inductive Result where
  | none
  | endOfPayload
  | clamp
  | corrupt
  | noCfg
  deriving DecidableEq, Repr

/-- The class of the first violation the last COMMIT found, STATUS.CFGERR (R24, R129). -/
inductive CfgErr where
  | none
  | width
  | height
  | palSize
  deriving DecidableEq, Repr

/-- The class of the first frame-size violation the last START found, STATUS.FSERR (R25, R130). -/
inductive FsErr where
  | none
  | zero
  | odd
  | tooBig
  deriving DecidableEq, Repr

/-- The two spaces whose cells can be unwritten (R44). -/
inductive Space where
  | pal
  | buf
  deriving DecidableEq, Repr

/-- Why a host access is not admitted (R57). -/
inductive HostFaultReason where
  | badWidth
  | misaligned
  deriving DecidableEq, Repr

/-- The model-level faults of 60_exceptions.md R134. They are not hardware signals: they stand where the hardware's
behaviour is unspecified. -/
inductive Fault where
  /-- Raised by the five HOSTFAULT instructions: a host access that R57 does not admit. Safe: the hardware may go on. -/
  | hostFault (reason : HostFaultReason)
  /-- Raised by FETCH, PAINT, RD_PAL and RDB_BUF: a read of a cell not written since reset (R44). Safe: the hardware
  would go on with an unspecified value. -/
  | unwritten (space : Space) (index : Nat)
  deriving DecidableEq, Repr

/-- The reasons an instruction has no meaning. -/
inductive Refusal where
  /-- Raised by an arm of `exec` whose instruction has no meaning yet; there is none. Safe: nothing is claimed. -/
  | notModelled (mnemonic : String)
  deriving DecidableEq, Repr

/-- What a host read returns: "`wid`'s number of bits" (R75). -/
inductive Reply where
  | byte (b : Byte)
  | word (w : Word)
  deriving DecidableEq, Repr

/-- A store of cells by index: pairs of an index and a value, indexes strictly rising (`Memory.wf`). An index that is
not listed holds no value (R44, R45, log 3, log 4). `Memory 8` is a list of `Host.Cell`. -/
abbrev Memory (width : Nat) := List (Nat × BitVec width)

/-- The canonical form of a store: indexes strictly rise. No entry can equal an unlisted cell, which has no value. -/
abbrev Memory.wf {width : Nat} (m : Memory width) : Prop :=
  m.Pairwise (fun p q => p.1 < q.1)

/-- What moves next (R61: one interleaving of host operations and engine steps; R145; R152). -/
inductive Event where
  /-- The host performs one bus transaction (R75). -/
  | host (t : Txn)
  /-- The host's POLL loop (R81): RD STATUS, repeated while BUSY is 1. -/
  | poll
  /-- The host's confirmation of its COMMIT (R148 step 2): RD STATUS, after which it stops if CFG_VALID is 0 (log 28). -/
  | confirm
  /-- The engine has the turn (R100). -/
  | engine
  /-- RST is asserted (R145). -/
  | reset
  /-- Another agent writes framebuffer pixel `(x, y)`, if the framebuffer has one there (R45, R152, log 14). -/
  | display (x y : Nat) (colour : Half)
  deriving DecidableEq, Repr

/-- Whether an event is the host's doing: another agent's and RST's are not. -/
def Event.isHost : Event → Bool
  | .host _ | .poll | .confirm => true
  | .engine | .reset | .display _ _ _ => false

/-- The state of VPDEC, its framebuffer and its surroundings. -/
structure State where
  /-- MODEL's own: the implementation parameter FB_W of this VPDEC (R7); no step changes it (log 1). -/
  fbW : Nat
  /-- MODEL's own: the implementation parameter FB_H of this VPDEC (R7); no step changes it (log 1). -/
  fbH : Nat
  /-- MODEL's own: the implementation parameter PALETTE_MAX of this VPDEC (R8); no step changes it (log 1). -/
  paletteMax : Nat
  /-- MODEL's own: the implementation parameter BUFFER_MAX of this VPDEC (R9); no step changes it (log 23). -/
  bufferMax : Nat
  /-- STATUS.BUSY (R19). -/
  busy : Bool
  /-- STATUS.DONE (R20). -/
  done : Bool
  /-- STATUS.CFG_VALID (R21). -/
  cfgValid : Bool
  /-- STATUS.WBUSY (R22). -/
  wbusy : Bool
  /-- STATUS.RESULT (R23). -/
  result : Result
  /-- STATUS.CFGERR (R24). -/
  cfgErr : CfgErr
  /-- STATUS.FSERR (R25). -/
  fsErr : FsErr
  /-- CFG_WIDTH (R27). -/
  cfgWidth : Half
  /-- CFG_HEIGHT (R28). -/
  cfgHeight : Half
  /-- CFG_PALSIZE (R29). -/
  cfgPalSize : Byte
  /-- FRAME_SIZE (R30). -/
  frameSize : Word
  /-- ACT_WIDTH (R31). -/
  actWidth : Half
  /-- ACT_HEIGHT (R32). -/
  actHeight : Half
  /-- ACT_PALSIZE (R33). -/
  actPalSize : Byte
  /-- SCALE (R34). -/
  scale : Half
  /-- XOFF (R35). -/
  xoff : Half
  /-- YOFF (R36). -/
  yoff : Half
  /-- CUR_PX (R37). -/
  px : Half
  /-- CUR_PY (R38). -/
  py : Word
  /-- CUR_RP (R39). -/
  rp : Word
  /-- CUR_RUN.REM (R40). -/
  rem : Byte
  /-- CUR_RUN.CIDX (R40). -/
  cidx : Byte
  /-- The palette table (R42, R44). -/
  pal : Memory 16
  /-- The payload buffer (R43, R44). -/
  buf : List Host.Cell
  /-- The framebuffer, by pixel index `y*FB_W + x` (R45, R51): the pixels written since power-on (log 3). -/
  fb : Memory 16
  /-- The fault set of R134; no step clears it (log 5). -/
  faults : List Fault
  /-- MODEL's own: what moves next, in order; when it is used up the engine has every turn (R61, R157, log 6). -/
  pending : List Event
  /-- MODEL's own: the value the last host read returned (R75, log 7). -/
  reply : Option Reply
  deriving DecidableEq, Repr

/-- The machine right after power-on reset: every register 0 (R146 (2), D11), every palette entry and payload byte
unwritten (R146 (3)), no framebuffer pixel written yet (R45), no fault recorded; the four numeric parameters at
their defaults (R7 to R9). -/
def State.reset : State where
  fbW := Config.FB_W
  fbH := Config.FB_H
  paletteMax := Config.PALETTE_MAX
  bufferMax := Config.BUFFER_MAX
  busy := false
  done := false
  cfgValid := false
  wbusy := false
  result := .none
  cfgErr := .none
  fsErr := .none
  cfgWidth := 0
  cfgHeight := 0
  cfgPalSize := 0
  frameSize := 0
  actWidth := 0
  actHeight := 0
  actPalSize := 0
  scale := 0
  xoff := 0
  yoff := 0
  px := 0
  py := 0
  rp := 0
  rem := 0
  cidx := 0
  pal := []
  buf := []
  fb := []
  faults := []
  pending := []
  reply := none

end Sys2Proof.Machine
end

