-- ==== Sys2Proof/Machine/Operands.lean ====
section
/-! DEFINITION. The operand forms of the host operations: the part of a write's data that a register stores (30_encoding.md
R77), the widening of a read (R83), and the big-endian byte groups of the container file (20_memory.md R53). -/

namespace Sys2Proof.Machine

/-- `data[15:0]`, what CFG_WIDTH, CFG_HEIGHT and a palette entry store of a write (R77). -/
def lowHalf (data : Word) : Half :=
  data.extractLsb' 0 16

/-- `data[7:0]`, what CFG_PALSIZE stores of a write (R77). -/
def lowByte (data : Word) : Byte :=
  data.extractLsb' 0 8

/-- `data[3]`, the bit of a STATUS write that clears WBUSY (R77, R95). -/
def clearsWbusy (data : Word) : Bool :=
  data.getLsbD 3

/-- `zext_32`, the only widening (R12, R83). -/
def zext32 {width : Nat} (v : BitVec width) : Word :=
  v.setWidth 32

/-- The value of CUR_RUN: `CIDX` in bits 15:8 and `REM` in bits 7:0 (R40). -/
def curRunWord (rem cidx : Byte) : Word :=
  zext32 (cidx ++ rem)

/-- A big-endian u16: the most significant byte first (R53). -/
def be16 (hi lo : Byte) : Half :=
  hi ++ lo

/-- A big-endian u32: the most significant byte first (R53). -/
def be32 (b3 b2 b1 b0 : Byte) : Word :=
  (b3 ++ b2) ++ (b1 ++ b0)

/-- The bytes of a u16 in file order (R53). -/
def bytesOf16 (v : Half) : List Byte :=
  [v.extractLsb' 8 8, v.extractLsb' 0 8]

/-- The bytes of a u32 in file order (R53). -/
def bytesOf32 (v : Word) : List Byte :=
  [v.extractLsb' 24 8, v.extractLsb' 16 8, v.extractLsb' 8 8, v.extractLsb' 0 8]

/-- The offset into REG of a bus address, if VPDEC is what lies there: 64 KiB from the register block's base (R50, R52,
R75). -/
def regOffsetAt (base addr : Nat) : Option Half :=
  if base ≤ addr ∧ addr < base + 0x10000 then some (BitVec.ofNat 16 (addr - base)) else none

/-- The offset of a bus address on this platform, whose VP_BASE is open (R11, log 2). -/
def regOffset (addr : Nat) : Option Half :=
  regOffsetAt Config.VP_BASE addr

end Sys2Proof.Machine
end

