-- ==== Sys2Proof/Machine/Flags.lean ====
section
/-! DEFINITION. STATUS: its codes, the checks that set them, and the register as the host reads it
(10_state.md R19 to R26, R41; 60_exceptions.md R128 to R130, R135, R136). -/

namespace Sys2Proof.Machine

/-- The RESULT code (R23). -/
def Result.code : Result → BitVec 4
  | .none => 0
  | .endOfPayload => 1
  | .clamp => 2
  | .corrupt => 3
  | .noCfg => 4

/-- The CFGERR code (R24). -/
def CfgErr.code : CfgErr → BitVec 4
  | .none => 0
  | .width => 1
  | .height => 2
  | .palSize => 3

/-- The FSERR code (R25). -/
def FsErr.code : FsErr → BitVec 2
  | .none => 0
  | .zero => 1
  | .odd => 2
  | .tooBig => 3

/-- A flag as a bit of STATUS. -/
def flagBit (b : Bool) : BitVec 1 :=
  BitVec.ofBool b

/-- The whole STATUS register as it reads, `zext_32(FSERR ++ CFGERR ++ RESULT ++ WBUSY ++ CFG_VALID ++ DONE ++ BUSY)`
(R26, R85). -/
def statusWord (s : State) : Word :=
  zext32 (s.fsErr.code ++ (s.cfgErr.code ++ (s.result.code ++
    (flagBit s.wbusy ++ (flagBit s.cfgValid ++ (flagBit s.done ++ flagBit s.busy))))))

/-- The first header invariant a candidate configuration violates, in header order, for a framebuffer of `fbW` by `fbH`
pixels and a palette of `palMax` entries (R98, R135). -/
def cfgErrOf (fbW fbH palMax w h p : Nat) : CfgErr :=
  if ¬(1 ≤ w ∧ w ≤ fbW) then .width
  else if ¬(1 ≤ h ∧ h ≤ fbH) then .height
  else if ¬(1 ≤ p ∧ p ≤ palMax) then .palSize
  else .none

/-- The first frame-size invariant a frame size violates: zero, then odd, then too big for a payload buffer of
`bufMax` bytes (R99, R136). -/
def fsErrOf (bufMax size : Nat) : FsErr :=
  if size = 0 then .zero
  else if size % 2 = 1 then .odd
  else if bufMax < size then .tooBig
  else .none

end Sys2Proof.Machine
end

