-- ==== Sys2Proof/Machine/Geometry.lean ====
section
/-! DEFINITION. The integer-scale geometry that COMMIT computes (42_blit.md section 1), and where a logical pixel's block
and a framebuffer pixel lie (R122, 20_memory.md R51). -/

namespace Sys2Proof.Machine

/-- The integer scale factor on a framebuffer of `fbW` by `fbH` pixels (R116), kept as the source writes it, with the outer
`max`. -/
def geoScale (fbW fbH w h : Nat) : Nat :=
  max 1 (min (fbW / w) (fbH / h))

/-- The horizontal centering offset (R117). -/
def geoXoff (fbW w s : Nat) : Nat :=
  (fbW - w * s) / 2

/-- The vertical centering offset (R118). -/
def geoYoff (fbH h s : Nat) : Nat :=
  (fbH - h * s) / 2

/-- The index of framebuffer pixel `(x, y)`: row-major, `FB_W` pixels a row (R51). -/
def pixelIndex (fbW x y : Nat) : Nat :=
  y * fbW + x

/-- The first column of logical column `px`'s block (R122). -/
def blockX (s : State) (px : Nat) : Nat :=
  s.xoff.toNat + px * s.scale.toNat

/-- The first row of logical row `py`'s block (R122). -/
def blockY (s : State) (py : Nat) : Nat :=
  s.yoff.toNat + py * s.scale.toNat

/-- Whether framebuffer pixel `(x, y)` lies in the block of logical pixel `(px, py)` (R122). -/
abbrev InBlock (s : State) (px py x y : Nat) : Prop :=
  blockX s px ≤ x ∧ x < blockX s px + s.scale.toNat ∧ blockY s py ≤ y ∧ y < blockY s py + s.scale.toNat

end Sys2Proof.Machine
end

