-- ==== Sys2Proof/Machine/Ops.lean ====
section
/-! DEFINITION. The named operations over the stores and the registers that the meanings are built from: reading and
writing cells, the busy-write rule, `advance`, `finish`, `blit`, and reset. `finish` is VPDEC's nearest thing to taking an
exception (60_exceptions.md R138); there is no return from one (R139). -/

namespace Sys2Proof.Machine

/-! ## Stores -/

/-- The value of a cell, if it holds one (00_scope.md R14). -/
def Memory.read {width : Nat} : Memory width → Nat → Option (BitVec width)
  | [], _ => none
  | (b, v) :: m, a => if a = b then some v else Memory.read m a

/-- Puts one cell in its place in a store and goes on with `rest` on the cells above it. -/
def Memory.overlayCell {width : Nat} (a : Nat) (v : BitVec width) (rest : Memory width → Memory width) :
    Memory width → Memory width
  | [] => (a, v) :: rest []
  | (b, w) :: old =>
    if b < a then (b, w) :: Memory.overlayCell a v rest old
    else if b = a then (a, v) :: rest old
    else (a, v) :: rest ((b, w) :: old)

/-- Writes a rising list of cells over a store, in one pass. -/
def Memory.overlay {width : Nat} : Memory width → Memory width → Memory width
  | [] => fun old => old
  | (a, v) :: new => Memory.overlayCell a v (Memory.overlay new)

/-- Writes one cell (R14). -/
def Memory.write {width : Nat} (m : Memory width) (a : Nat) (v : BitVec width) : Memory width :=
  Memory.overlay [(a, v)] m

/-! ## The host's side -/

/-- The value a read returns reaches the host; nothing else changes (20_memory.md R60). -/
def State.answer (s : State) (r : Reply) : State :=
  { s with reply := some r }

/-- The host stops: nothing of its own is pending any more; RST, other agents and the engine go on (R144, log 28). -/
def State.stopHost (s : State) : State :=
  { s with pending := s.pending.filter fun e => !e.isHost }

/-- A dropped write changes nothing except `STATUS.WBUSY <- 1` (40_host_ops.md R82). -/
def State.dropWrite (s : State) : State :=
  { s with wbusy := true }

/-- The busy-write rule, shared by every write it covers (R82). -/
def State.hostWrite (s : State) (effect : State → State) : State :=
  if s.busy then s.dropWrite else effect s

def State.clearWbusy (s : State) : State :=
  { s with wbusy := false }

def State.putCfgWidth (s : State) (v : Half) : State :=
  { s with cfgWidth := v }

def State.putCfgHeight (s : State) (v : Half) : State :=
  { s with cfgHeight := v }

def State.putCfgPalSize (s : State) (v : Byte) : State :=
  { s with cfgPalSize := v }

def State.putFrameSize (s : State) (v : Word) : State :=
  { s with frameSize := v }

/-- `MemWrite(PAL:i, 2, v)`: entry i becomes written (R14, R93). -/
def State.putPal (s : State) (i : Nat) (v : Half) : State :=
  { s with pal := Memory.write s.pal i v }

/-- `MemWrite(BUF:j, 1, v)`: byte j becomes written (R14, R94). -/
def State.putBuf (s : State) (j : Nat) (v : Byte) : State :=
  { s with buf := Memory.write s.buf j v }

/-- Another agent's write of one framebuffer pixel (R45, R152). -/
def State.putPixel (s : State) (x y : Nat) (colour : Half) : State :=
  { s with fb := Memory.write s.fb (pixelIndex s.fbW x y) colour }

/-! ## Commands -/

/-- A COMMIT that found a violation (R98). -/
def State.rejectConfig (s : State) (err : CfgErr) : State :=
  { s with
    cfgValid := false, cfgErr := err
    actWidth := 0, actHeight := 0, actPalSize := 0
    scale := 0, xoff := 0, yoff := 0 }

/-- A COMMIT that found a valid configuration latches it with the geometry of `w`, `h` (R98, R116 to R118). -/
def State.latchConfig (s : State) (w h : Half) (p : Byte) (sc : Nat) : State :=
  { s with
    cfgValid := true, cfgErr := .none
    actWidth := w, actHeight := h, actPalSize := p
    scale := BitVec.ofNat 16 sc
    xoff := BitVec.ofNat 16 (geoXoff s.fbW w.toNat sc)
    yoff := BitVec.ofNat 16 (geoYoff s.fbH h.toNat sc) }

/-- What COMMIT's check finds of the candidate configuration (R98, R135). -/
def State.candidateErr (s : State) : CfgErr :=
  cfgErrOf s.fbW s.fbH s.paletteMax s.cfgWidth.toNat s.cfgHeight.toNat s.cfgPalSize.toNat

/-- The scale of the candidate configuration (R98, R116). -/
def State.candidateScale (s : State) : Nat :=
  geoScale s.fbW s.fbH s.cfgWidth.toNat s.cfgHeight.toNat

/-- COMMIT on an idle VPDEC (R98). -/
def State.commit (s : State) : State :=
  match s.candidateErr with
  | .none => s.latchConfig s.cfgWidth s.cfgHeight s.cfgPalSize s.candidateScale
  | err => s.rejectConfig err

/-- A START that is refused: NOCFG or CORRUPT (R99, R128). The cursor registers keep their values (D6). -/
def State.refuseStart (s : State) (r : Result) (e : FsErr) : State :=
  { s with result := r, fsErr := e, done := true }

/-- An accepted START (R99). -/
def State.beginDecode (s : State) : State :=
  { s with
    px := 0, py := 0, rp := 0, rem := 0, cidx := 0
    result := .none, fsErr := .none, done := false, busy := true }

/-- START on an idle VPDEC, its tests in the order of R136 (R99). -/
def State.start (s : State) : State :=
  if s.cfgValid then
    match fsErrOf s.bufferMax s.frameSize.toNat with
    | .none => s.beginDecode
    | e => s.refuseStart .corrupt e
  else s.refuseStart .noCfg .none

/-! ## The engine's registers -/

/-- The cursor's linear position `PY*W + PX` (R46, R102). -/
def State.linear (s : State) : Nat :=
  s.py.toNat * s.actWidth.toNat + s.px.toNat

/-- `advance(n)`: the cursor moves n logical pixels forward in raster order (41_rle_engine.md R102). -/
def State.advance (s : State) (n : Nat) : State :=
  { s with
    px := BitVec.ofNat 16 ((s.linear + n) % s.actWidth.toNat)
    py := BitVec.ofNat 32 ((s.linear + n) / s.actWidth.toNat) }

/-- `finish(code)`: ends the decode (R103). -/
def State.finish (s : State) (code : Result) : State :=
  { s with rem := 0, result := code, busy := false, done := true }

/-- A RUN's operands become the engine's run state (R106). A RUN of count 0 leaves CIDX alone: it "has no effect besides
using up its two bytes" (R73, D31, log 26). -/
def State.loadRun (s : State) (count index : Byte) : State :=
  { s with cidx := if count = 0 then s.cidx else index, rem := count }

/-- `RP <- RP + 2` (R105). -/
def State.passRun (s : State) : State :=
  { s with rp := s.rp + 2 }

/-- `REM <- REM - 1` (R108). -/
def State.countPixel (s : State) : State :=
  { s with rem := s.rem - 1 }

/-! ## The raster blitter -/

/-- One row of a block: `n` pixels from `(x, y)` on, all `colour`, in a framebuffer of `fbW` columns (R122, R123). -/
def blockRow (fbW x y n : Nat) (colour : Half) : Memory 16 :=
  (List.range n).map fun dx => (pixelIndex fbW (x + dx) y, colour)

/-- The `n` by `n` block whose first pixel is `(x, y)`, written over a framebuffer of `fbW` columns
(R122). -/
def paintBlock (fbW : Nat) (fb : Memory 16) (x y n : Nat) (colour : Half) : Memory 16 :=
  (List.range n).foldl (fun m dy => Memory.overlay (blockRow fbW x (y + dy) n colour) m) fb

/-- `blit(px, py, c)`: the block of logical pixel `(px, py)` takes the colour `c` (42_blit.md R122). -/
def State.blit (s : State) (px py : Nat) (colour : Half) : State :=
  { s with fb := paintBlock s.fbW s.fb (blockX s px) (blockY s py) s.scale.toNat colour }

/-- The value of framebuffer pixel `(x, y)`: what was written there last, or the display's free value (R45, log 3). -/
def State.pixel (s : State) (x y : Nat) : Half :=
  (Memory.read s.fb (pixelIndex s.fbW x y)).getD (Config.displayPixel (pixelIndex s.fbW x y))

/-- The two bytes of a pixel in address order (R56). -/
def pixelBytes (order : ByteOrder) (v : Half) : Byte × Byte :=
  match order with
  | .big => (v.extractLsb' 8 8, v.extractLsb' 0 8)
  | .little => (v.extractLsb' 0 8, v.extractLsb' 8 8)

/-- The byte the display's memory holds at a bus address, if it lies in the framebuffer, for a base address and a byte
order: pixel `(x, y)` is at `FB_BASE + 2*(y*FB_W + x)` (R51, R56). -/
def State.displayByteAt (base : Nat) (order : ByteOrder) (s : State) (addr : Nat) : Option Byte :=
  if base ≤ addr ∧ addr < base + 2 * (s.fbW * s.fbH) then
    let n := (addr - base) / 2
    let bytes := pixelBytes order (s.pixel (n % s.fbW) (n / s.fbW))
    some (if (addr - base) % 2 = 0 then bytes.1 else bytes.2)
  else none

/-- The display's memory as bytes, at the platform's open parameters (R11, log 2). -/
def State.displayByte (s : State) (addr : Nat) : Option Byte :=
  s.displayByteAt Config.FB_BASE Config.FB_BYTE_ORDER addr

/-! ## Reset and faults -/

/-- RST: every register, PAL and BUF as at power-on; the framebuffer and the fault set are not touched (R145, R146).
The host's side, `pending` and `reply`, is not VPDEC's (log 15), and the parameters are fixed (R7 to R9). -/
def State.resetBy (s : State) : State :=
  { State.reset with
    fbW := s.fbW, fbH := s.fbH, paletteMax := s.paletteMax, bufferMax := s.bufferMax
    fb := s.fb, faults := s.faults, pending := s.pending, reply := s.reply }

/-- A fault joins the fault set, which holds each fault once (R134). -/
def State.record (s : State) (f : Fault) : State :=
  { s with faults := if f ∈ s.faults then s.faults else f :: s.faults }

/-- `raise HostFault(reason)`: the access performs nothing (R15, R57, R134). -/
def raiseHostFault (reason : HostFaultReason) : Host.Outcome State Fault Refusal :=
  .fault (.hostFault reason)

/-- `raise Unwritten(space, index)`: the step does not happen (R15, R44, R134). -/
def raiseUnwritten (space : Space) (index : Nat) : Host.Outcome State Fault Refusal :=
  .fault (.unwritten space index)

end Sys2Proof.Machine
end

