-- ==== Sys2Proof/Machine/Commands.lean ====
section
/-! DEFINITION. The four commands of a CTRL write (40_host_ops.md R97 to R99), each under the busy-write rule (R82). -/

namespace Sys2Proof.Machine

/-- WR CTRL with `data[1:0] = 00`: nothing, even while BUSY, and WBUSY is not set (R97). -/
def execCtrlNop (_ignored : BitVec 30) (s : State) : Host.Outcome State Fault Refusal :=
  .next s

/-- COMMIT: validates the candidate configuration and latches it with its geometry (R98). -/
def execCommit (_ignored : BitVec 30) (s : State) : Host.Outcome State Fault Refusal :=
  .next (s.hostWrite State.commit)

/-- START: begins decoding the payload, or refuses at once (R99). -/
def execStart (_ignored : BitVec 30) (s : State) : Host.Outcome State Fault Refusal :=
  .next (s.hostWrite State.start)

/-- Both command bits: COMMIT, then START, which sees the state COMMIT left (R97, D21). -/
def execCommitStart (_ignored : BitVec 30) (s : State) : Host.Outcome State Fault Refusal :=
  .next (s.hostWrite fun s => s.commit.start)

end Sys2Proof.Machine
end

