-- ==== Sys2Proof/Machine/HostFaults.lean ====
section
/-! DEFINITION. The host accesses that 20_memory.md R57 does not admit. "The hardware's behaviour for such an access is
unspecified": a model raises HostFault and performs nothing. -/

namespace Sys2Proof.Machine

/-- A 16-bit access anywhere: HostFault(BadWidth) (R57). -/
def execHostFaultW16 (_dir : Dir) (_off : Half) (_s : State) : Host.Outcome State Fault Refusal :=
  raiseHostFault .badWidth

/-- A transaction with width code 3, which is not a width: HostFault(BadWidth) (R57). -/
def execHostFaultW3 (_dir : Dir) (_off : Half) (_s : State) : Host.Outcome State Fault Refusal :=
  raiseHostFault .badWidth

/-- A 32-bit access below 0x8000 at an offset that is not a multiple of 4: HostFault(Misaligned) (R57). -/
def execHostFaultMisaligned (_dir : Dir) (_off : Half) (_s : State) : Host.Outcome State Fault Refusal :=
  raiseHostFault .misaligned

/-- A 32-bit access at or above 0x8000: HostFault(BadWidth) (R57). -/
def execHostFaultW32High (_dir : Dir) (_off : Half) (_s : State) : Host.Outcome State Fault Refusal :=
  raiseHostFault .badWidth

/-- An 8-bit access below 0x8000: HostFault(BadWidth) (R57). -/
def execHostFaultW8Low (_dir : Dir) (_off : Half) (_s : State) : Host.Outcome State Fault Refusal :=
  raiseHostFault .badWidth

end Sys2Proof.Machine
end

