-- ==== Sys2Proof/Machine/HostReads.lean ====
section
/-! DEFINITION. The host's reads (40_host_ops.md R83 to R88). Each is admitted while BUSY, and none has a side effect
(20_memory.md R60): only the returned value reaches the host. -/

namespace Sys2Proof.Machine

/-- The 32-bit read that every RD shares: a value is returned and nothing else changes (R60, R83). -/
def State.readWord (s : State) (v : Word) : Host.Outcome State Fault Refusal :=
  .next (s.answer (.word v))

/-- RD CTRL returns 0: CTRL holds no state (R84). -/
def execRdCtrl (s : State) : Host.Outcome State Fault Refusal :=
  s.readWord 0

/-- RD STATUS returns the whole register (R85). -/
def execRdStatus (s : State) : Host.Outcome State Fault Refusal :=
  s.readWord (statusWord s)

/-- RD CFG_WIDTH (R83, R27). -/
def execRdCfgWidth (s : State) : Host.Outcome State Fault Refusal :=
  s.readWord (zext32 s.cfgWidth)

/-- RD CFG_HEIGHT (R83, R28). -/
def execRdCfgHeight (s : State) : Host.Outcome State Fault Refusal :=
  s.readWord (zext32 s.cfgHeight)

/-- RD CFG_PALSIZE (R83, R29). -/
def execRdCfgPalSize (s : State) : Host.Outcome State Fault Refusal :=
  s.readWord (zext32 s.cfgPalSize)

/-- RD FRAME_SIZE (R83, R30). -/
def execRdFrameSize (s : State) : Host.Outcome State Fault Refusal :=
  s.readWord s.frameSize

/-- RD ACT_WIDTH (R83, R31). -/
def execRdActWidth (s : State) : Host.Outcome State Fault Refusal :=
  s.readWord (zext32 s.actWidth)

/-- RD ACT_HEIGHT (R83, R32). -/
def execRdActHeight (s : State) : Host.Outcome State Fault Refusal :=
  s.readWord (zext32 s.actHeight)

/-- RD ACT_PALSIZE (R83, R33). -/
def execRdActPalSize (s : State) : Host.Outcome State Fault Refusal :=
  s.readWord (zext32 s.actPalSize)

/-- RD SCALE (R83, R34). -/
def execRdScale (s : State) : Host.Outcome State Fault Refusal :=
  s.readWord (zext32 s.scale)

/-- RD XOFF (R83, R35). -/
def execRdXoff (s : State) : Host.Outcome State Fault Refusal :=
  s.readWord (zext32 s.xoff)

/-- RD YOFF (R83, R36). -/
def execRdYoff (s : State) : Host.Outcome State Fault Refusal :=
  s.readWord (zext32 s.yoff)

/-- RD CUR_PX (R83, R37). -/
def execRdCurPx (s : State) : Host.Outcome State Fault Refusal :=
  s.readWord (zext32 s.px)

/-- RD CUR_PY (R83, R38). -/
def execRdCurPy (s : State) : Host.Outcome State Fault Refusal :=
  s.readWord s.py

/-- RD CUR_RP (R83, R39). -/
def execRdCurRp (s : State) : Host.Outcome State Fault Refusal :=
  s.readWord s.rp

/-- RD CUR_RUN: `CIDX` above `REM` (R83, R40). -/
def execRdCurRun (s : State) : Host.Outcome State Fault Refusal :=
  s.readWord (curRunWord s.rem s.cidx)

/-- RD PAL[i]: the entry zero-extended; Unwritten(PAL, i) if it has not been written since reset (R86).
At an offset past the last of the PALETTE_MAX entries there is no entry: it reads as a reserved location, 0 (DESIGN CHOICE,
log 29). -/
def execRdPal (i : BitVec 4) (s : State) : Host.Outcome State Fault Refusal :=
  if i.toNat < s.paletteMax then
    match Memory.read s.pal i.toNat with
    | some v => s.readWord (zext32 v)
    | none => raiseUnwritten .pal i.toNat
  else s.readWord 0

/-- RDB j: payload byte j; Unwritten(BUF, j) if it has not been written since reset (R87). -/
def execRdbBuf (j : BitVec 15) (s : State) : Host.Outcome State Fault Refusal :=
  match Memory.read s.buf j.toNat with
  | some b => .next (s.answer (.byte b))
  | none => raiseUnwritten .buf j.toNat

/-- RD of a reserved 32-bit location returns 0 (R88, D10). -/
def execRdRsvd (_off : Half) (s : State) : Host.Outcome State Fault Refusal :=
  s.readWord 0

/-- RDB of a reserved byte of the payload window returns 0 (R88, D10). -/
def execRdbRsvd (_off : Half) (s : State) : Host.Outcome State Fault Refusal :=
  .next (s.answer (.byte 0))

end Sys2Proof.Machine
end

