-- ==== Sys2Proof/Machine/HostWrites.lean ====
section
/-! DEFINITION. The host's writes (40_host_ops.md R89 to R96), the RW targets under the busy-write rule (R82). -/

namespace Sys2Proof.Machine

/-- WR CFG_WIDTH stores `v[15:0]`, whatever the value (R89). -/
def execWrCfgWidth (data : Word) (s : State) : Host.Outcome State Fault Refusal :=
  .next (s.hostWrite fun s => s.putCfgWidth (lowHalf data))

/-- WR CFG_HEIGHT stores `v[15:0]` (R90). -/
def execWrCfgHeight (data : Word) (s : State) : Host.Outcome State Fault Refusal :=
  .next (s.hostWrite fun s => s.putCfgHeight (lowHalf data))

/-- WR CFG_PALSIZE stores `v[7:0]` (R91). -/
def execWrCfgPalSize (data : Word) (s : State) : Host.Outcome State Fault Refusal :=
  .next (s.hostWrite fun s => s.putCfgPalSize (lowByte data))

/-- WR FRAME_SIZE stores all of v (R92). -/
def execWrFrameSize (data : Word) (s : State) : Host.Outcome State Fault Refusal :=
  .next (s.hostWrite fun s => s.putFrameSize data)

/-- WR PAL[i] stores `v[15:0]`, and entry i becomes written (R93). Past the last of the PALETTE_MAX entries it does
nothing, as at a reserved location (DESIGN CHOICE, log 29). -/
def execWrPal (i : BitVec 4) (data : Word) (s : State) : Host.Outcome State Fault Refusal :=
  .next (if i.toNat < s.paletteMax then s.hostWrite fun s => s.putPal i.toNat (lowHalf data) else s)

/-- WRB j stores the byte, and byte j becomes written (R94). -/
def execWrbBuf (j : BitVec 15) (data : Byte) (s : State) : Host.Outcome State Fault Refusal :=
  .next (s.hostWrite fun s => s.putBuf j.toNat data)

/-- WR STATUS: `v[3] = 1` clears WBUSY, every other bit is ignored; never dropped (R95). -/
def execWrStatus (data : Word) (s : State) : Host.Outcome State Fault Refusal :=
  .next (if clearsWbusy data then s.clearWbusy else s)

/-- A write to a read-only register or a reserved location: nothing, not even WBUSY while BUSY (R96, D10). -/
def State.ignoreWrite (s : State) : Host.Outcome State Fault Refusal :=
  .next s

/-- WR ACT_WIDTH: no effect, the register is read-only (R96). -/
def execWrActWidth (_data : Word) (s : State) : Host.Outcome State Fault Refusal :=
  s.ignoreWrite

/-- WR ACT_HEIGHT: no effect, the register is read-only (R96). -/
def execWrActHeight (_data : Word) (s : State) : Host.Outcome State Fault Refusal :=
  s.ignoreWrite

/-- WR ACT_PALSIZE: no effect, the register is read-only (R96). -/
def execWrActPalSize (_data : Word) (s : State) : Host.Outcome State Fault Refusal :=
  s.ignoreWrite

/-- WR SCALE: no effect, the register is read-only (R96). -/
def execWrScale (_data : Word) (s : State) : Host.Outcome State Fault Refusal :=
  s.ignoreWrite

/-- WR XOFF: no effect, the register is read-only (R96). -/
def execWrXoff (_data : Word) (s : State) : Host.Outcome State Fault Refusal :=
  s.ignoreWrite

/-- WR YOFF: no effect, the register is read-only (R96). -/
def execWrYoff (_data : Word) (s : State) : Host.Outcome State Fault Refusal :=
  s.ignoreWrite

/-- WR CUR_PX: no effect, the register is read-only (R96). -/
def execWrCurPx (_data : Word) (s : State) : Host.Outcome State Fault Refusal :=
  s.ignoreWrite

/-- WR CUR_PY: no effect, the register is read-only (R96). -/
def execWrCurPy (_data : Word) (s : State) : Host.Outcome State Fault Refusal :=
  s.ignoreWrite

/-- WR CUR_RP: no effect, the register is read-only (R96). -/
def execWrCurRp (_data : Word) (s : State) : Host.Outcome State Fault Refusal :=
  s.ignoreWrite

/-- WR CUR_RUN: no effect, the register is read-only (R96). -/
def execWrCurRun (_data : Word) (s : State) : Host.Outcome State Fault Refusal :=
  s.ignoreWrite

/-- WR of a reserved 32-bit location: no effect (R96). -/
def execWrRsvd (_off : Half) (_data : Word) (s : State) : Host.Outcome State Fault Refusal :=
  s.ignoreWrite

/-- WRB of a reserved byte of the payload window: no effect (R96). -/
def execWrbRsvd (_off : Half) (_data : Byte) (s : State) : Host.Outcome State Fault Refusal :=
  s.ignoreWrite

end Sys2Proof.Machine
end

