-- ==== Sys2Proof/Machine/Runs.lean ====
section
/-! DEFINITION. The two payload instructions, RUN and SKIP: what they do within the FETCH step that read them
(41_rle_engine.md R106, R107). FETCH itself moves RP (R105, Machine/Engine.lean). -/

namespace Sys2Proof.Machine

/-- RUN c, i: `CIDX <- i; REM <- c`; the pixels are painted by the PAINT steps that follow (R106). A RUN of
count 0 does nothing (R73, D31, log 26). -/
def execRun (count index : Byte) (s : State) : Host.Outcome State Fault Refusal :=
  .next (s.loadRun count index)

/-- SKIP c, i: `advance(c)`; nothing is painted and no flag is set (R107, R132). -/
def execSkip (count _index : Byte) (s : State) : Host.Outcome State Fault Refusal :=
  .next (s.advance count.toNat)

end Sys2Proof.Machine
end

