-- ==== Sys2Proof/Machine/Dispatch.lean ====
section
/-! DEFINITION. The meaning of every instruction: one arm per constructor of `Instr`. -/

namespace Sys2Proof.Machine

/-- The meaning of an instruction. -/
def exec (i : Instr) (s : State) : Host.Outcome State Fault Refusal :=
  match i with
  | .run count index => Sys2Proof.Machine.execRun count index s
  | .skip count index => Sys2Proof.Machine.execSkip count index s
  | .ctrlNop ignored => Sys2Proof.Machine.execCtrlNop ignored s
  | .commit ignored => Sys2Proof.Machine.execCommit ignored s
  | .start ignored => Sys2Proof.Machine.execStart ignored s
  | .commitStart ignored => Sys2Proof.Machine.execCommitStart ignored s
  | .rdCtrl => Sys2Proof.Machine.execRdCtrl s
  | .rdStatus => Sys2Proof.Machine.execRdStatus s
  | .wrStatus data => Sys2Proof.Machine.execWrStatus data s
  | .rdCfgWidth => Sys2Proof.Machine.execRdCfgWidth s
  | .wrCfgWidth data => Sys2Proof.Machine.execWrCfgWidth data s
  | .rdCfgHeight => Sys2Proof.Machine.execRdCfgHeight s
  | .wrCfgHeight data => Sys2Proof.Machine.execWrCfgHeight data s
  | .rdCfgPalSize => Sys2Proof.Machine.execRdCfgPalSize s
  | .wrCfgPalSize data => Sys2Proof.Machine.execWrCfgPalSize data s
  | .rdFrameSize => Sys2Proof.Machine.execRdFrameSize s
  | .wrFrameSize data => Sys2Proof.Machine.execWrFrameSize data s
  | .rdActWidth => Sys2Proof.Machine.execRdActWidth s
  | .wrActWidth data => Sys2Proof.Machine.execWrActWidth data s
  | .rdActHeight => Sys2Proof.Machine.execRdActHeight s
  | .wrActHeight data => Sys2Proof.Machine.execWrActHeight data s
  | .rdActPalSize => Sys2Proof.Machine.execRdActPalSize s
  | .wrActPalSize data => Sys2Proof.Machine.execWrActPalSize data s
  | .rdScale => Sys2Proof.Machine.execRdScale s
  | .wrScale data => Sys2Proof.Machine.execWrScale data s
  | .rdXoff => Sys2Proof.Machine.execRdXoff s
  | .wrXoff data => Sys2Proof.Machine.execWrXoff data s
  | .rdYoff => Sys2Proof.Machine.execRdYoff s
  | .wrYoff data => Sys2Proof.Machine.execWrYoff data s
  | .rdCurPx => Sys2Proof.Machine.execRdCurPx s
  | .wrCurPx data => Sys2Proof.Machine.execWrCurPx data s
  | .rdCurPy => Sys2Proof.Machine.execRdCurPy s
  | .wrCurPy data => Sys2Proof.Machine.execWrCurPy data s
  | .rdCurRp => Sys2Proof.Machine.execRdCurRp s
  | .wrCurRp data => Sys2Proof.Machine.execWrCurRp data s
  | .rdCurRun => Sys2Proof.Machine.execRdCurRun s
  | .wrCurRun data => Sys2Proof.Machine.execWrCurRun data s
  | .rdPal entry => Sys2Proof.Machine.execRdPal entry s
  | .wrPal entry data => Sys2Proof.Machine.execWrPal entry data s
  | .rdRsvd off => Sys2Proof.Machine.execRdRsvd off s
  | .wrRsvd off data => Sys2Proof.Machine.execWrRsvd off data s
  | .rdbBuf j => Sys2Proof.Machine.execRdbBuf j s
  | .wrbBuf j data => Sys2Proof.Machine.execWrbBuf j data s
  | .rdbRsvd off => Sys2Proof.Machine.execRdbRsvd off s
  | .wrbRsvd off data => Sys2Proof.Machine.execWrbRsvd off data s
  | .hostFaultW16 dir off => Sys2Proof.Machine.execHostFaultW16 dir off s
  | .hostFaultW3 dir off => Sys2Proof.Machine.execHostFaultW3 dir off s
  | .hostFaultMisaligned dir off => Sys2Proof.Machine.execHostFaultMisaligned dir off s
  | .hostFaultW32High dir off => Sys2Proof.Machine.execHostFaultW32High dir off s
  | .hostFaultW8Low dir off => Sys2Proof.Machine.execHostFaultW8Low dir off s

end Sys2Proof.Machine
end

