-- ==== Sys2Proof/Machine/Engine.lean ====
section
/-! DEFINITION. The engine's step relation (41_rle_engine.md section 1), and what each kind of event does: the body of
`step`, and how a word of the opcode table is put where the next step takes it. -/

namespace Sys2Proof.Machine

/-! ## The engine's steps -/

/-- The END step: the payload is used up (R104). -/
def engineEnd (s : State) : Host.Outcome State Fault Refusal :=
  .next (s.finish .endOfPayload)

/-- The FETCH step: reads the run at RP, moves RP past it, and runs it (R105). Unwritten bytes are reported before any
state changes, the count's first (R137, log 22). -/
def engineFetch (s : State) : Host.Outcome State Fault Refusal :=
  match Memory.read s.buf s.rp.toNat with
  | none => raiseUnwritten .buf s.rp.toNat
  | some count =>
    match Memory.read s.buf (s.rp.toNat + 1) with
    | none => raiseUnwritten .buf (s.rp.toNat + 1)
    | some index => exec (decodeRun s.actPalSize count index) s.passRun

/-- The CLAMP step: a pixel would fall below the canvas (R109). -/
def engineClamp (s : State) : Host.Outcome State Fault Refusal :=
  .next (s.finish .clamp)

/-- The PAINT step: one logical pixel of the current RUN (R108). -/
def enginePaint (s : State) : Host.Outcome State Fault Refusal :=
  match Memory.read s.pal s.cidx.toNat with
  | none => raiseUnwritten .pal s.cidx.toNat
  | some colour => .next (((s.blit s.px.toNat s.py.toNat colour).advance 1).countPixel)

/-- The engine's turn: no step while IDLE (R100, log 17), and the one that R101 picks while BUSY. -/
def engineStep (s : State) : Host.Outcome State Fault Refusal :=
  if s.busy then
    if s.rem = 0 ∧ s.rp = s.frameSize then engineEnd s
    else if s.rem = 0 then engineFetch s
    else if s.actHeight.toNat ≤ s.py.toNat then engineClamp s
    else enginePaint s
  else .next s

/-! ## Events -/

/-- One event, on the state whose `pending` is what comes after it. POLL reads STATUS, and while BUSY is 1 gives the
engine a turn and reads again (R81, log 8). After a confirmation that finds CFG_VALID = 0 the host stops (R148, log 28). -/
def runEvent (e : Event) (s : State) : Host.Outcome State Fault Refusal :=
  match e with
  | .host t => exec (decodeTxn s.bufferMax t) s
  | .poll => exec .rdStatus (if s.busy then { s with pending := .engine :: .poll :: s.pending } else s)
  | .confirm => exec .rdStatus (if s.cfgValid then s else s.stopHost)
  | .engine => engineStep s
  | .reset => .next s.resetBy
  | .display x y colour => .next (if x < s.fbW ∧ y < s.fbH then s.putPixel x y colour else s)

/-- The next move: the first pending event, or the engine's turn when none is left (R61, R157, log 6). -/
def nextMove (s : State) : Host.Outcome State Fault Refusal :=
  match s.pending with
  | [] => engineStep s
  | e :: rest => runEvent e { s with pending := rest }

/-! ## Placing an instruction -/

/-- The machine about to FETCH the run `count, index`: the state an accepted START leaves after a COMMIT of FB_W x FB_H with
PALETTE_MAX colours and FRAME_SIZE = 2, with the run's two bytes in BUF[0..1] and the engine's turn next (log 12). -/
def State.placeRun (s : State) (count index : Byte) : State :=
  { s with
    busy := true, done := false, cfgValid := true, result := .none, cfgErr := .none, fsErr := .none
    frameSize := 2
    actWidth := BitVec.ofNat 16 s.fbW, actHeight := BitVec.ofNat 16 s.fbH
    actPalSize := tablePalSize s.paletteMax
    scale := 1, xoff := 0, yoff := 0
    px := 0, py := 0, rp := 0, rem := 0, cidx := 0
    buf := Memory.overlay [(0, count), (1, index)] s.buf
    pending := .engine :: s.pending }

/-- The machine about to see the host perform a transaction (log 12). -/
def State.placeTxn (s : State) (t : Txn) : State :=
  { s with pending := .host t :: s.pending }

/-- A word of the opcode table put where the next step takes it: a run in the payload buffer, a transaction at the head
of what is pending (log 11, log 12). -/
def State.placeWord (s : State) (nbits w : Nat) : State :=
  if nbits ≤ 16 then s.placeRun (BitVec.ofNat 8 (w / 256)) (BitVec.ofNat 8 w)
  else s.placeTxn (tableTxn w)

end Sys2Proof.Machine
end

