-- ==== Sys2Proof/Machine/Step.lean ====
section
/-! DEFINITION. One step of VPDEC and its surroundings (20_memory.md R59, R61). -/

namespace Sys2Proof.Machine

/-- One step: the next move of the interleaving that `pending` holds (R61). -/
def step (s : State) : Host.Outcome State Fault Refusal :=
  nextMove s

/-- The instruction whose bits are `w`, numbered as spec/opcode_table.json numbers them, placed so that the next step
runs exactly it (log 11, log 12). -/
def State.withFetchWord (s : State) (nbits w : Nat) : State :=
  s.placeWord nbits w

end Sys2Proof.Machine
end

