-- ==== Sys2Proof/Machine/Assembler.lean ====
section
/-! DEFINITION. The assembler syntax of payloads and host programs (30_encoding.md section 4): what each line stands for,
as payload bytes and as events. No step depends on it. -/

namespace Sys2Proof.Machine

/-- A line of payload source (R78, R79). -/
inductive PayloadLine where
  | run (count index : Byte)
  | fill (n : Nat) (index : Byte)
  | skippx (n : Nat)
  | bytes (bs : List Byte)
  deriving DecidableEq, Repr

/-- `FILL n, i`: `floor(n/255)` copies of `RUN 255, i`, then `RUN (n mod 255), i` if that is not 0 (R79). -/
def fillBytes (n : Nat) (index : Byte) : List Byte :=
  (List.replicate (n / 255) [255, index]).flatten ++
    (if n % 255 ≠ 0 then [BitVec.ofNat 8 (n % 255), index] else [])

/-- The bytes of a payload line (R78, R79). -/
def PayloadLine.assemble : PayloadLine → List Byte
  | .run c i => [c, i]
  | .fill n i => fillBytes n i
  | .skippx n => fillBytes n 0xFF
  | .bytes bs => bs

/-- The bytes of a payload listing (R78). -/
def assemblePayload (lines : List PayloadLine) : List Byte :=
  lines.flatMap PayloadLine.assemble

/-- The number of logical pixels a payload's whole runs stand for: the sum of their counts. -/
def runLengthSum : List Byte → Nat
  | c :: _ :: rest => c.toNat + runLengthSum rest
  | _ => 0

/-- The commands of `CMD` (R80). -/
inductive Command where
  | commit
  | start
  | commitStart
  deriving DecidableEq, Repr

/-- The value a command writes to CTRL (R80). -/
def Command.value : Command → Word
  | .commit => 1
  | .start => 2
  | .commitStart => 3

/-- A line of a host program (R80, R81), and the host's confirmation of its COMMIT (R148 step 2, log 28). -/
inductive HostLine where
  | wr (r : Reg) (v : Word)
  | rd (r : Reg)
  | wrPal (i : BitVec 4) (v : Word)
  | rdPal (i : BitVec 4)
  | wrb (j : BitVec 15) (b : Byte)
  | rdb (j : BitVec 15)
  | cmd (c : Command)
  | load (j : Nat) (bs : List Byte)
  | loadp (payload : List PayloadLine)
  | poll
  | confirm
  | palw (i : BitVec 4) (v : Word)
  deriving DecidableEq, Repr

/-- `LOAD j, b0 b1 ...`: one WRB for each byte, at `j`, `j+1`, ... (R81). The spec has no WRB past index 32767, where
`0x8000 + j` leaves 16 bits: the index is taken mod 2^15 there, so byte 32768 goes to BUF[0] (DESIGN CHOICE, log 24). -/
def loadEvents (j : Nat) : List Byte → List Event
  | [] => []
  | b :: bs => .host (.write8 (bufOffset (BitVec.ofNat 15 j)) b) :: loadEvents (j + 1) bs

/-- `LOADP`: the payload's bytes from 0 on, then its length to FRAME_SIZE (R81); a payload of more than 32768 bytes as
`loadEvents` takes it (log 24). A length of 2^32 or more does not fit the 32-bit write: it is taken mod 2^32 there
(DESIGN CHOICE, log 24). -/
def loadPayloadEvents (bs : List Byte) : List Event :=
  loadEvents 0 bs ++ [.host (.write32 Reg.frameSize.offset (BitVec.ofNat 32 bs.length))]

/-- What a line of a host program makes the host do (R80, R81). -/
def HostLine.events : HostLine → List Event
  | .wr r v => [.host (.write32 r.offset v)]
  | .rd r => [.host (.read32 r.offset)]
  | .wrPal i v => [.host (.write32 (palOffset i) v)]
  | .rdPal i => [.host (.read32 (palOffset i))]
  | .wrb j b => [.host (.write8 (bufOffset j) b)]
  | .rdb j => [.host (.read8 (bufOffset j))]
  | .cmd c => [.host (.write32 Reg.ctrl.offset c.value)]
  | .load j bs => loadEvents j bs
  | .loadp payload => loadPayloadEvents (assemblePayload payload)
  | .poll => [.poll]
  | .confirm => [.confirm]
  | .palw i v => [.host (.write32 (palOffset i) v)]

/-- The events of a host program, in program order (R59). -/
def assembleHost (lines : List HostLine) : List Event :=
  lines.flatMap HostLine.events

end Sys2Proof.Machine
end

