-- ==== Sys2Proof/Machine/Container.lean ====
section
/-! DEFINITION. The container file that the host reads VPDEC's configuration and payloads from (30_encoding.md section 1),
its validity, and the host operations it leads to (60_exceptions.md R144, 70_reset_and_hazards.md R148). The file is the
host's: no step reads it. -/

namespace Sys2Proof.Machine

/-- The 11-byte header (R66). -/
structure Header where
  frameCount : Word
  width : Half
  height : Half
  frameRate : Half
  paletteSize : Byte
  deriving DecidableEq, Repr

/-- The header's bytes, by file offset: frameCount at 0, width at 4, height at 6, frameRate at 8, paletteSize at 10
(R66). -/
def Header.toBytes (h : Header) : List Byte :=
  bytesOf32 h.frameCount ++ bytesOf16 h.width ++ bytesOf16 h.height ++ bytesOf16 h.frameRate ++ [h.paletteSize]

/-- Reads a header off the front of a file (R53, R66). -/
def readHeader : List Byte → Option (Header × List Byte)
  | c3 :: c2 :: c1 :: c0 :: w1 :: w0 :: h1 :: h0 :: r1 :: r0 :: p :: rest =>
    some (⟨be32 c3 c2 c1 c0, be16 w1 w0, be16 h1 h0, be16 r1 r0, p⟩, rest)
  | _ => none

/-- Reads `n` big-endian palette entries (R67). -/
def readPalette : Nat → List Byte → Option (List Half × List Byte)
  | 0, bs => some ([], bs)
  | n + 1, hi :: lo :: bs =>
    match readPalette n bs with
    | some (entries, rest) => some (be16 hi lo :: entries, rest)
    | none => none
  | _ + 1, _ => none

/-- The bytes of palette entries (R67). -/
def paletteBytes (entries : List Half) : List Byte :=
  entries.flatMap bytesOf16

/-- Reads a frame record: its size, then that many payload bytes (R68). `none` is the host's `Truncated` (R6 (6)). -/
def readFrame : List Byte → Option (Word × List Byte × List Byte)
  | s3 :: s2 :: s1 :: s0 :: bs =>
    let size := be32 s3 s2 s1 s0
    if size.toNat ≤ bs.length then some (size, bs.take size.toNat, bs.drop size.toNat) else none
  | _ => none

/-- The bytes of a frame record (R68). A payload of 2^32 bytes or more has no u32 size; its length is taken mod 2^32 there
(DESIGN CHOICE, log 24). -/
def frameBytes (payload : List Byte) : List Byte :=
  bytesOf32 (BitVec.ofNat 32 payload.length) ++ payload

/-- File offset of palette entry `k` (R67). -/
def paletteEntryOffset (k : Nat) : Nat :=
  11 + 2 * k

/-- File offset of frame record `n`, where the records before it have the sizes listed (R68). -/
def frameOffset (paletteSize : Nat) (sizes : List Nat) (n : Nat) : Nat :=
  11 + 2 * paletteSize + ((sizes.take n).map fun size => 4 + size).sum

/-- The header invariants of the source, for a framebuffer of `fbW` by `fbH` pixels and a palette of `palMax` entries; a
header that violates one is invalid (R7, R8, R69). -/
def Header.valid (fbW fbH palMax : Nat) (h : Header) : Bool :=
  decide (0 < h.width.toNat) && decide (h.width.toNat ≤ fbW)
    && decide (0 < h.height.toNat) && decide (h.height.toNat ≤ fbH)
    && decide (0 < h.frameRate.toNat)
    && decide (0 < h.paletteSize.toNat) && decide (h.paletteSize.toNat ≤ palMax)

/-- Whether a frame record of this size is corrupt, for a payload buffer of `bufMax` bytes (R69). -/
def frameCorrupt (bufMax size : Nat) : Bool :=
  !(decide (0 < size) && decide (size % 2 = 0) && decide (size ≤ bufMax))

/-- Step 1 and 2 of the boot order: the configuration, then COMMIT, then the read of STATUS that confirms CFG_VALID = 1;
if it does not, the host sends nothing more (R144, R148, log 28). -/
def Header.configLines (h : Header) : List HostLine :=
  [ .wr .cfgWidth (zext32 h.width), .wr .cfgHeight (zext32 h.height), .wr .cfgPalSize (zext32 h.paletteSize),
    .cmd .commit, .confirm ]

/-- Step 3: the palette, entry k to `PAL[k]` (R67, R148). The spec has no PAL[k] past 15, which only an invalid header asks
for: k is taken mod 16 there, so entry 16 goes to PAL[0] (DESIGN CHOICE, log 25). -/
def paletteLines (k : Nat) : List Half → List HostLine
  | [] => []
  | c :: cs => .palw (BitVec.ofNat 4 k) (zext32 c) :: paletteLines (k + 1) cs

/-- Step 4, for one frame: payload and FRAME_SIZE, START, POLL (R148). -/
def frameLines (payload : List Byte) : List HostLine :=
  [.loadp [.bytes payload], .cmd .start, .poll]

/-- The host program that plays a header, a palette and frames on VPDEC in the boot order (R148). -/
def playLines (h : Header) (palette : List Half) (frames : List (List Byte)) : List HostLine :=
  h.configLines ++ paletteLines 0 palette ++ frames.flatMap frameLines

end Sys2Proof.Machine
end

