-- ==== Sys2Proof/Machine/Record.lean ====
section
/-! DEFINITION. The fault set across a run (60_exceptions.md R134): a step that faults does not happen, its fault is
recorded, and the run goes on with what comes next. `step` itself stops at a fault (log 5). -/

namespace Sys2Proof.Machine

/-- The move that was due is passed over; a faulting access "performs nothing" (R134). -/
def State.passMove (s : State) : State :=
  { s with pending := s.pending.tail }

/-- One step of a recorded run: a fault is recorded and the state is otherwise what it was (R134, R137). -/
def recordStep (s : State) : State :=
  match step s with
  | .next t => t
  | .fault f => s.passMove.record f
  | .refused _ => s

/-- `n` steps of a recorded run. -/
def recordRun : Nat → State → State
  | 0, s => s
  | n + 1, s => recordRun n (recordStep s)

end Sys2Proof.Machine
end

