-- ==== Sys2Proof/Safety.lean ====
section
/-! DEFINITION. The terms in which claims speak of a good run: final states (60_exceptions.md R134), the fault a step can
end in, and the invariant of every boundary between moves (10_state.md R20, R25, R31 to R36, R46 to R48). -/

namespace Sys2Proof.Machine

/-- A final state: nothing is left to happen, and no fault is recorded, for "a state with a recorded fault is never a
final state" (R134). The spec defines no more of the word: that a final state has BUSY = 0 and nothing pending is the
model's choice (DESIGN CHOICE, log 27). -/
def State.Final (s : State) : Prop :=
  s.busy = false ∧ s.pending = [] ∧ s.faults = []

/-- The parameters lie in the ranges they may take (R7 to R9, log 1, log 23). -/
structure State.ParametersOk (s : State) : Prop where
  fbW : Config.FrameSideOk s.fbW
  fbH : Config.FrameSideOk s.fbH
  paletteMax : Config.PaletteMaxOk s.paletteMax
  bufferMax : Config.BufferMaxOk s.bufferMax

/-- Two states are of one VPDEC: their parameters are the same (R7 to R9). -/
def State.SameParameters (s t : State) : Prop :=
  t.fbW = s.fbW ∧ t.fbH = s.fbH ∧ t.paletteMax = s.paletteMax ∧ t.bufferMax = s.bufferMax

/-- The committed configuration is either valid, in range, with the geometry of its width and height, or all zero
(R31 to R36, R98, R119). -/
structure State.ConfigOk (s : State) : Prop where
  width : s.cfgValid = true → 1 ≤ s.actWidth.toNat ∧ s.actWidth.toNat ≤ s.fbW
  height : s.cfgValid = true → 1 ≤ s.actHeight.toNat ∧ s.actHeight.toNat ≤ s.fbH
  palSize : s.cfgValid = true → 1 ≤ s.actPalSize.toNat ∧ s.actPalSize.toNat ≤ s.paletteMax
  scale : s.cfgValid = true → s.scale.toNat = geoScale s.fbW s.fbH s.actWidth.toNat s.actHeight.toNat
  xoff : s.cfgValid = true → s.xoff.toNat = geoXoff s.fbW s.actWidth.toNat s.scale.toNat
  yoff : s.cfgValid = true → s.yoff.toNat = geoYoff s.fbH s.actHeight.toNat s.scale.toNat
  noErr : s.cfgValid = true → s.cfgErr = .none
  zero : s.cfgValid = false →
    s.actWidth = 0 ∧ s.actHeight = 0 ∧ s.actPalSize = 0 ∧ s.scale = 0 ∧ s.xoff = 0 ∧ s.yoff = 0

/-- What holds while a decode is in progress (R46, R47, R48, R99). -/
structure State.DecodeOk (s : State) : Prop where
  configured : s.cfgValid = true
  column : s.px.toNat < s.actWidth.toNat
  position : s.linear ≤ s.actWidth.toNat * s.actHeight.toNat + 255 * (s.rp.toNat / 2)
  pointerEven : s.rp.toNat % 2 = 0
  pointerInFrame : s.rp.toNat ≤ s.frameSize.toNat
  frameEven : s.frameSize.toNat % 2 = 0
  framePositive : 0 < s.frameSize.toNat
  frameFits : s.frameSize.toNat ≤ s.bufferMax
  index : s.rem ≠ 0 → s.cidx.toNat < s.actPalSize.toNat
  noOutcome : s.done = false ∧ s.result = .none ∧ s.fsErr = .none

/-- The stores keep their canonical form and stay within their spaces (R49). -/
structure State.StoresOk (s : State) : Prop where
  palRising : Memory.wf s.pal
  bufRising : Memory.wf s.buf
  fbRising : Memory.wf s.fb
  palInside : ∀ p ∈ s.pal, p.1 < s.paletteMax
  bufInside : ∀ p ∈ s.buf, p.1 < s.bufferMax
  fbInside : ∀ p ∈ s.fb, p.1 < s.fbW * s.fbH

/-- The invariant of every boundary between moves. -/
structure State.Inv (s : State) : Prop where
  parameters : s.ParametersOk
  stores : s.StoresOk
  config : s.ConfigOk
  decode : s.busy = true → s.DecodeOk
  idle : s.busy = false → s.rem = 0
  outcome : s.done = true ↔ s.result ≠ .none
  frameError : s.fsErr ≠ .none ↔ s.result = .corrupt

/-- The engine can fetch and paint without meeting an unwritten cell: what the host owes before START (R144, R148). -/
structure State.Loaded (s : State) : Prop where
  payload : ∀ j, j < s.frameSize.toNat → (Memory.read s.buf j).isSome = true
  palette : ∀ i, i < s.actPalSize.toNat → (Memory.read s.pal i).isSome = true

/-- The state seen through what the engine reads and writes: everything but WBUSY, the reply, the fault set and what is
pending. A host operation while BUSY leaves it alone (R64, R82). -/
def State.engineView (s : State) : State :=
  { s with wbusy := false, reply := none, faults := [], pending := [] }

/-- `n` steps of the machine, stopping at the first fault (the same as the host's own run of `core`). -/
def runFor : Nat → State → Host.Outcome State Fault Refusal
  | 0, s => .next s
  | n + 1, s =>
    match step s with
    | .next t => runFor n t
    | .fault f => .fault f
    | .refused r => .refused r

/-- The state an accepted START leaves the engine's registers in (R99, R110). -/
structure State.DecodeBegins (s : State) : Prop where
  busy : s.busy = true
  column : s.px = 0
  row : s.py = 0
  pointer : s.rp = 0
  noRun : s.rem = 0

/-- Whether the next step is the engine's (R61, R157, log 6). -/
def State.engineHasTurn (s : State) : Bool :=
  match s.pending with
  | [] | .engine :: _ => true
  | _ => false

/-- How many of the next `n` steps of a recorded run the engine takes while BUSY (R100, R114). -/
def engineStepsIn : Nat → State → Nat
  | 0, _ => 0
  | n + 1, s => (if s.busy && s.engineHasTurn then 1 else 0) + engineStepsIn n (recordStep s)

/-- Whether an event leaves the framebuffer's pixels to the engine: it is no other agent's write and no RST. -/
def Event.leavesPicture : Event → Bool
  | .host _ | .poll | .confirm | .engine => true
  | .reset | .display _ _ _ => false

/-- One logical pixel forward, as the source says it: "`px += 1`; if `px == width`, `px = 0; py += 1`" (R102). -/
def State.advanceOne (s : State) : State :=
  if s.px + 1 = s.actWidth then { s with px := 0, py := s.py + 1 } else { s with px := s.px + 1 }

/-- The pixel stream of a payload: each run's count copies of its index, in payload order (R112). -/
def pixelStream : List Byte → List Byte
  | c :: i :: rest => List.replicate c.toNat i ++ pixelStream rest
  | _ => []

/-- Whether every run of a payload is a RUN under a palette size (R112). -/
def everyRunBelow (palSize : Nat) : List Byte → Bool
  | _ :: i :: rest => decide (i.toNat < palSize) && everyRunBelow palSize rest
  | _ => true

/-- Whether framebuffer pixel `(x, y)` lies in the image rectangle, which the blocks of the canvas tile (R125). -/
abbrev InImage (s : State) (x y : Nat) : Prop :=
  s.xoff.toNat ≤ x ∧ x < s.xoff.toNat + s.actWidth.toNat * s.scale.toNat ∧
    s.yoff.toNat ≤ y ∧ y < s.yoff.toNat + s.actHeight.toNat * s.scale.toNat

/-- The host's reads (R83 to R88). -/
inductive IsRead : Instr → Prop
  | ctrl : IsRead .rdCtrl
  | status : IsRead .rdStatus
  | cfgWidth : IsRead .rdCfgWidth
  | cfgHeight : IsRead .rdCfgHeight
  | cfgPalSize : IsRead .rdCfgPalSize
  | frameSize : IsRead .rdFrameSize
  | actWidth : IsRead .rdActWidth
  | actHeight : IsRead .rdActHeight
  | actPalSize : IsRead .rdActPalSize
  | scale : IsRead .rdScale
  | xoff : IsRead .rdXoff
  | yoff : IsRead .rdYoff
  | curPx : IsRead .rdCurPx
  | curPy : IsRead .rdCurPy
  | curRp : IsRead .rdCurRp
  | curRun : IsRead .rdCurRun
  | pal (i : BitVec 4) : IsRead (.rdPal i)
  | buf (j : BitVec 15) : IsRead (.rdbBuf j)
  | reserved (off : Half) : IsRead (.rdRsvd off)
  | reservedByte (off : Half) : IsRead (.rdbRsvd off)

end Sys2Proof.Machine
end

