-- ==== Sys2Proof/Certificates/Slice0/Obligations.lean ====
section
/-! DEFINITION. The statements for the provers. Each docstring says which rule of spec/ it formalises. -/

open Sys2Proof Sys2Proof.Machine

/-! ## Encodings -/

/-- Decoding the code of a well-formed instruction gives it back, with every operand at every value, for every capacity of
the payload buffer and under every palette size it fits (R9, R70, R72, R75 to R77). -/
def Obligations.DecodeEncodeRoundTrip : Prop :=
  ∀ (bufMax : Nat) (palSize : Byte) (i : Instr), i.wf bufMax = true → i.fits palSize = true →
    decode bufMax palSize (encode i) = i

/-- Encoding what a transaction decodes to gives back its 19-bit key, all the data of an admitted 32-bit write and the
low byte of an admitted 8-bit write, for every capacity of the payload buffer (R9, R75, R77). -/
def Obligations.EncodeDecodeKeepsTransaction : Prop :=
  ∀ (bufMax : Nat) (t : Txn), ∃ u : Txn, encode (decodeTxn bufMax t) = .bus u ∧ u.key = t.key ∧
    (t.wid = 2 → t.dir = .write → t.off.toNat < 0x8000 → t.off.toNat % 4 = 0 → u.data = t.data) ∧
    (t.wid = 0 → t.dir = .write → 0x8000 ≤ t.off.toNat → u.data.toNat = t.data.toNat % 256)

/-- Every run and every transaction decodes to a well-formed instruction: "all 65536 patterns decode as RUN or SKIP"
(R73), and the rows of R76 cover every transaction, for every capacity of the payload buffer (R9). -/
def Obligations.EveryCodeDecodesWellFormed : Prop :=
  ∀ bufMax : Nat,
    (∀ palSize c i : Byte, palSize.toNat ≤ 16 →
      (decodeRun palSize c i = .run c i ∨ decodeRun palSize c i = .skip c i) ∧
      (decodeRun palSize c i).wf bufMax = true ∧ (decodeRun palSize c i).fits palSize = true) ∧
    ∀ t : Txn, (decodeTxn bufMax t).wf bufMax = true ∧ (decodeTxn bufMax t).isBus = true

/-- Every transaction is hit by a row of the opcode table, and every row that hits it has the mnemonic of the instruction
it decodes to, for every capacity of the payload buffer (R9); the same of every run's word, under every committed palette
size (R72, R75). -/
def Obligations.DecoderAgreesWithOpcodeTable : Prop :=
  ∀ bufMax : Nat,
    (∀ t : Txn, (∃ r ∈ busRows, r.hits bufMax t = true) ∧
      ∀ r ∈ busRows, r.hits bufMax t = true → r.mnemonic = (decodeTxn bufMax t).mnemonic) ∧
    ∀ (palSize : Byte) (w : BitVec 16), palSize.toNat ≤ 16 →
      (∃ r ∈ rleRows, r.hits palSize w = true) ∧
      ∀ r ∈ rleRows, r.hits palSize w = true → r.mnemonic = (decode bufMax palSize (.rle w)).mnemonic

/-- A run is a RUN exactly when its index is below ACT_PALSIZE, and a SKIP otherwise; an index with a bit of 7:4 set is
always a SKIP (R72). -/
def Obligations.RunOrSkipByCommittedPaletteSize : Prop :=
  ∀ palSize c i : Byte,
    (i.toNat < palSize.toNat → decodeRun palSize c i = .run c i) ∧
    (palSize.toNat ≤ i.toNat → decodeRun palSize c i = .skip c i) ∧
    (palSize.toNat ≤ 16 → i.extractLsb' 4 4 ≠ 0 → decodeRun palSize c i = .skip c i)

/-- A few words, written out from the encodings: `RLE16 = count ++ index` (R70) and `key = wid<<17 | dir<<16 | off`
(R75), with the offsets of R76 at the default BUFFER_MAX. -/
def Obligations.SpecWordsDecode : Prop :=
  decode 30000 2 (.rle 0x0101) = .run 1 1 ∧
  decode 30000 2 (.rle 0x0102) = .skip 1 2 ∧
  decode 30000 16 (.rle 0xFF80) = .skip 255 128 ∧
  decodeTxn 30000 (Txn.ofKey 0x50000 1) = .commit 0 ∧
  decodeTxn 30000 (Txn.ofKey 0x50000 2) = .start 0 ∧
  decodeTxn 30000 (Txn.ofKey 0x40004 0) = .rdStatus ∧
  decodeTxn 30000 (Txn.ofKey 0x50014 4) = .wrFrameSize 4 ∧
  decodeTxn 30000 (Txn.ofKey 0x50044 0x1234ABCD) = .wrPal 1 0x1234ABCD ∧
  decodeTxn 30000 (Txn.ofKey 0x18003 1) = .wrbBuf 3 1 ∧
  decodeTxn 30000 (Txn.ofKey 0x0F530 0) = .rdbRsvd 0xF530 ∧
  decodeTxn 30000 (Txn.ofKey 0x20004 0) = .hostFaultW16 .read 0x004 ∧
  decodeTxn 30000 (Txn.ofKey 0x40006 0) = .hostFaultMisaligned .read 0x006 ∧
  decodeTxn 30000 (Txn.ofKey 0x58000 0) = .hostFaultW32High .write 0x8000 ∧
  decodeTxn 30000 (Txn.ofKey 0x00004 0) = .hostFaultW8Low .read 0x004

/-- A word of the opcode table placed in a state is what the next step runs: a transaction on the state itself, a run on
the placed state with RP moved past it; after reset, what it runs is what `decodeTableWord` reads (the model's choice:
log 11, log 12). -/
def Obligations.PlacedWordRunsNext : Prop :=
  (∀ (s : State) (nbits w : Nat) (i : Instr), decodeTableWordFor s.paletteMax s.bufferMax nbits w = some i →
    (16 < nbits → step (s.withFetchWord nbits w) = exec i s) ∧
    (nbits ≤ 16 → Memory.wf s.buf →
      step (s.withFetchWord nbits w) = exec i { s.withFetchWord nbits w with rp := 2, pending := s.pending })) ∧
  ∀ nbits w : Nat, decodeTableWordFor State.reset.paletteMax State.reset.bufferMax nbits w = decodeTableWord nbits w

/-! ## What a step is -/

/-- When the host's transaction is what comes next, a step is the meaning of the instruction it decodes to (R59, R75). -/
def Obligations.StepPerformsDecodedTransaction : Prop :=
  ∀ (s : State) (t : Txn) (rest : List Event), s.pending = .host t :: rest →
    step s = exec (decodeTxn s.bufferMax t) { s with pending := rest }

/-- When the engine has the turn, because it comes next or because nothing else is pending, a step is the engine's step
(the model's form of R61 and R157: log 6). -/
def Obligations.EngineTurnIsEngineStep : Prop :=
  ∀ s : State,
    (s.pending = [] → step s = engineStep s) ∧
    (∀ rest, s.pending = .engine :: rest → step s = engineStep { s with pending := rest })

/-- FETCH reads the run at RP, moves RP past it, and runs what it decodes to: RUN when its index is below ACT_PALSIZE,
SKIP otherwise (R105). -/
def Obligations.FetchRunsDecodedRun : Prop :=
  ∀ (s : State) (c i : Byte), s.busy = true → s.rem = 0 → s.rp ≠ s.frameSize →
    Memory.read s.buf s.rp.toNat = some c → Memory.read s.buf (s.rp.toNat + 1) = some i →
    engineStep s = exec (decodeRun s.actPalSize c i) { s with rp := s.rp + 2 } ∧
    (i.toNat < s.actPalSize.toNat → engineStep s = exec (.run c i) { s with rp := s.rp + 2 }) ∧
    (s.actPalSize.toNat ≤ i.toNat → engineStep s = exec (.skip c i) { s with rp := s.rp + 2 })

/-- While IDLE the engine has no step and changes nothing (R100); a step in which only the engine could move answers the
state it was given (log 17). -/
def Obligations.IdleEngineChangesNothing : Prop :=
  ∀ s : State, s.busy = false →
    engineStep s = .next s ∧ (s.pending = [] → step s = .next s)

/-- END: with no run in progress and the payload used up, the decode finishes with RESULT = END; only REM, RESULT, BUSY
and DONE change (R103, R104). -/
def Obligations.EngineEndsAtPayloadEnd : Prop :=
  ∀ s : State, s.busy = true → s.rem = 0 → s.rp = s.frameSize →
    engineStep s = .next { s with rem := 0, result := .endOfPayload, busy := false, done := true }

/-- CLAMP: with a pixel of a RUN due at or below the canvas's last row, the decode finishes with RESULT = CLAMP and
nothing is painted; PX, PY, RP and CIDX keep their values (R103, R109). -/
def Obligations.EngineClampsBelowCanvas : Prop :=
  ∀ s : State, s.busy = true → s.rem ≠ 0 → s.actHeight.toNat ≤ s.py.toNat →
    engineStep s = .next { s with rem := 0, result := .clamp, busy := false, done := true }

/-- PAINT: with a pixel of a RUN due inside the canvas and its palette entry written, every pixel of the logical pixel's
block takes exactly the entry's value, every other framebuffer pixel keeps its own, REM counts down, and the cursor moves
one logical pixel; nothing else changes (R108, R122, R123). -/
def Obligations.EnginePaintsOneBlock : Prop :=
  ∀ (s : State) (colour : Half), s.Inv → s.busy = true → s.rem ≠ 0 → s.py.toNat < s.actHeight.toNat →
    Memory.read s.pal s.cidx.toNat = some colour →
    ∃ t, engineStep s = .next t ∧
      (∀ x y, x < s.fbW →
        t.pixel x y = if InBlock s s.px.toNat s.py.toNat x y then colour else s.pixel x y) ∧
      t.rem.toNat = s.rem.toNat - 1 ∧
      t.px.toNat = (s.linear + 1) % s.actWidth.toNat ∧
      t.py.toNat = (s.linear + 1) / s.actWidth.toNat ∧
      t = { s with fb := t.fb, rem := t.rem, px := t.px, py := t.py }

/-- An unwritten payload byte at FETCH and an unwritten palette entry at PAINT raise Unwritten, and the step does not
happen (R44, R137); of two unwritten bytes the count's is named (the model's reading: log 22). -/
def Obligations.EngineFaultsOnUnwrittenCells : Prop :=
  ∀ s : State, s.busy = true →
    (s.rem = 0 → s.rp ≠ s.frameSize →
      (Memory.read s.buf s.rp.toNat = none → engineStep s = .fault (.unwritten .buf s.rp.toNat)) ∧
      (Memory.read s.buf s.rp.toNat ≠ none → Memory.read s.buf (s.rp.toNat + 1) = none →
        engineStep s = .fault (.unwritten .buf (s.rp.toNat + 1)))) ∧
    (s.rem ≠ 0 → s.py.toNat < s.actHeight.toNat → Memory.read s.pal s.cidx.toNat = none →
      engineStep s = .fault (.unwritten .pal s.cidx.toNat))

/-- POLL reads STATUS; it ends at a read with BUSY = 0, and while BUSY is 1 it goes on (R81). That the engine has one
turn between two of its reads is the model's choice (log 8). The host's confirmation of its COMMIT reads STATUS once; with
CFG_VALID = 1 the host goes on, and with CFG_VALID = 0 nothing of the host's is pending any more and all else is kept
(R148 step 2; log 28). -/
def Obligations.PollRepeatsUntilIdle : Prop :=
  ∀ (s : State) (rest : List Event),
    (s.pending = .poll :: rest →
      ∃ t, step s = .next t ∧ t.reply = some (.word (statusWord s)) ∧
        t = { s with reply := t.reply, pending := t.pending } ∧
        (s.busy = false → t.pending = rest) ∧
        (s.busy = true → t.pending = .engine :: .poll :: rest)) ∧
    (s.pending = .confirm :: rest →
      ∃ t, step s = .next t ∧ t.reply = some (.word (statusWord s)) ∧
        t = { s with reply := t.reply, pending := t.pending } ∧
        (s.cfgValid = true → t.pending = rest) ∧
        (s.cfgValid = false → (∀ e ∈ t.pending, e.isHost = false) ∧ t.pending.Sublist rest ∧
          ∀ e, e.isHost = false → t.pending.count e = rest.count e))

/-! ## The payload instructions -/

/-- RUN c, i: `CIDX <- i; REM <- c`, and nothing else (R106); a run of count 0 "has no effect besides using up its two
bytes" (R73, D31): a RUN of count 0 leaves CIDX alone, and a FETCH of a run of count 0, a RUN or a SKIP, moves RP and nothing
else. That R73 limits R106 there is the model's reading (log 26). -/
def Obligations.RunLoadsIndexAndCount : Prop :=
  ∀ (c i : Byte) (s : State),
    (c ≠ 0 → exec (.run c i) s = .next { s with cidx := i, rem := c }) ∧
    exec (.run 0 i) s = .next { s with rem := 0 } ∧
    (s.busy = true → s.rem = 0 → s.rp ≠ s.frameSize → s.px.toNat < s.actWidth.toNat →
      Memory.read s.buf s.rp.toNat = some 0 → Memory.read s.buf (s.rp.toNat + 1) = some i →
      engineStep s = .next { s with rp := s.rp + 2 })

/-- SKIP c, i: the cursor advances by c logical pixels in raster order, and nothing else changes: no pixel, no flag, not
REM, not CIDX (R102, R107). -/
def Obligations.SkipAdvancesCursorOnly : Prop :=
  ∀ (c i : Byte) (s : State),
    exec (.skip c i) s = .next (s.advance c.toNat) ∧
    (0 < s.actWidth.toNat → s.linear + c.toNat < 2 ^ 32 →
      ∃ t, exec (.skip c i) s = .next t ∧
        t.px.toNat = (s.linear + c.toNat) % s.actWidth.toNat ∧
        t.py.toNat = (s.linear + c.toNat) / s.actWidth.toNat ∧
        t = { s with px := t.px, py := t.py })

/-- `advance(n)` puts the cursor at column `L mod W` and row `L div W` for `L = PY*W + PX + n`, which equals n repetitions
of the source's "`px += 1`; if `px == width`, `px = 0; py += 1`", given `PX < W` before; `advance(0)` changes nothing
(R102). The row is assumed to stay below 2^32, as it does in every decode (R38). -/
def Obligations.AdvanceIsRepeatedSingleSteps : Prop :=
  ∀ (n : Nat) (s : State), s.px.toNat < s.actWidth.toNat → s.py.toNat + n < 2 ^ 32 →
    s.advance n = State.advanceOne^[n] s ∧ s.advance 0 = s ∧
    (s.advance n).px.toNat = (s.py.toNat * s.actWidth.toNat + s.px.toNat + n) % s.actWidth.toNat ∧
    (s.advance n).py.toNat = (s.py.toNat * s.actWidth.toNat + s.px.toNat + n) / s.actWidth.toNat

/-! ## Commands -/

/-- COMMIT of a valid candidate configuration on an idle VPDEC latches it with its geometry, and changes nothing else:
SCALE is `max(1, min(FB_W div w, FB_H div h))`, in which the outer max changes nothing, XOFF is `(FB_W - w*s) div 2` and
YOFF is `(FB_H - h*s) div 2`, and neither subtraction goes below zero (R116 to R118). It holds for every value the
parameters FB_W, FB_H and PALETTE_MAX may take (R7, R8; log 1). -/
def Obligations.CommitLatchesValidConfiguration : Prop :=
  ∀ (ig : BitVec 30) (s : State), s.ParametersOk → s.busy = false →
    1 ≤ s.cfgWidth.toNat → s.cfgWidth.toNat ≤ s.fbW → 1 ≤ s.cfgHeight.toNat → s.cfgHeight.toNat ≤ s.fbH →
    1 ≤ s.cfgPalSize.toNat → s.cfgPalSize.toNat ≤ s.paletteMax →
    ∃ t, exec (.commit ig) s = .next t ∧
      t.scale.toNat = max 1 (min (s.fbW / s.cfgWidth.toNat) (s.fbH / s.cfgHeight.toNat)) ∧
      t.scale.toNat = min (s.fbW / s.cfgWidth.toNat) (s.fbH / s.cfgHeight.toNat) ∧
      s.cfgWidth.toNat * t.scale.toNat ≤ s.fbW ∧ t.xoff.toNat = (s.fbW - s.cfgWidth.toNat * t.scale.toNat) / 2 ∧
      s.cfgHeight.toNat * t.scale.toNat ≤ s.fbH ∧ t.yoff.toNat = (s.fbH - s.cfgHeight.toNat * t.scale.toNat) / 2 ∧
      t = { s with
        cfgValid := true, cfgErr := .none
        actWidth := s.cfgWidth, actHeight := s.cfgHeight, actPalSize := s.cfgPalSize
        scale := t.scale, xoff := t.xoff, yoff := t.yoff }

/-- COMMIT of an invalid one reports the first violation in header order, clears the committed configuration and the
geometry, and changes nothing else, whatever FB_W, FB_H and PALETTE_MAX are (R98, R135). -/
def Obligations.CommitReportsFirstViolation : Prop :=
  ∀ (ig : BitVec 30) (s : State), s.busy = false →
    let rejected (e : CfgErr) : State := { s with
      cfgValid := false, cfgErr := e, actWidth := 0, actHeight := 0, actPalSize := 0, scale := 0, xoff := 0, yoff := 0 }
    let badWidth := s.cfgWidth.toNat = 0 ∨ s.fbW < s.cfgWidth.toNat
    let badHeight := s.cfgHeight.toNat = 0 ∨ s.fbH < s.cfgHeight.toNat
    let badPalSize := s.cfgPalSize.toNat = 0 ∨ s.paletteMax < s.cfgPalSize.toNat
    (badWidth → exec (.commit ig) s = .next (rejected .width)) ∧
    (¬badWidth → badHeight → exec (.commit ig) s = .next (rejected .height)) ∧
    (¬badWidth → ¬badHeight → badPalSize → exec (.commit ig) s = .next (rejected .palSize))

/-- START with a valid configuration and a frame size that is positive, even and at most BUFFER_MAX clears the engine's
registers, RESULT, FSERR and DONE, sets BUSY, and changes nothing else (R99). -/
def Obligations.StartBeginsDecode : Prop :=
  ∀ (ig : BitVec 30) (s : State), s.busy = false → s.cfgValid = true →
    0 < s.frameSize.toNat → s.frameSize.toNat % 2 = 0 → s.frameSize.toNat ≤ s.bufferMax →
    exec (.start ig) s = .next { s with
      px := 0, py := 0, rp := 0, rem := 0, cidx := 0
      result := .none, fsErr := .none, done := false, busy := true }

/-- START tests in this order and reports only the first that applies: BUSY, which drops it and sets WBUSY; no valid
configuration, NOCFG; then CORRUPT with ZERO, ODD, TOO_BIG. A refused START sets RESULT, FSERR and DONE and changes
nothing else (R136). -/
def Obligations.StartRefusesInOrder : Prop :=
  ∀ (ig : BitVec 30) (s : State),
    let refused (r : Result) (e : FsErr) : State := { s with result := r, fsErr := e, done := true }
    (s.busy = true → exec (.start ig) s = .next { s with wbusy := true }) ∧
    (s.busy = false → s.cfgValid = false → exec (.start ig) s = .next (refused .noCfg .none)) ∧
    (s.busy = false → s.cfgValid = true → s.frameSize.toNat = 0 → exec (.start ig) s = .next (refused .corrupt .zero)) ∧
    (s.busy = false → s.cfgValid = true → s.frameSize.toNat % 2 = 1 →
      exec (.start ig) s = .next (refused .corrupt .odd)) ∧
    (s.busy = false → s.cfgValid = true → s.frameSize.toNat % 2 = 0 → s.bufferMax < s.frameSize.toNat →
      exec (.start ig) s = .next (refused .corrupt .tooBig))

/-- With both command bits set, START sees the state COMMIT left, in one host operation (R97). -/
def Obligations.CommitStartIsCommitThenStart : Prop :=
  ∀ (ig : BitVec 30) (s : State), s.busy = false →
    ∃ t u, exec (.commit ig) s = .next t ∧ exec (.start ig) t = .next u ∧ exec (.commitStart ig) s = .next u

/-- While BUSY, the commands and the writes of CFG_*, FRAME_SIZE, PAL and BUF are dropped: nothing changes except
`STATUS.WBUSY <- 1` (R82). A write at a palette offset past entry PALETTE_MAX-1 is no such write: it does nothing, whatever
BUSY is (the model's choice: log 29). -/
def Obligations.BusyDropsProtectedWrites : Prop :=
  ∀ (s : State) (ig : BitVec 30) (v : Word) (i : BitVec 4) (j : BitVec 15) (b : Byte),
    let dropped : Host.Outcome State Fault Refusal := .next { s with wbusy := true }
    (s.busy = true →
      exec (.commit ig) s = dropped ∧ exec (.start ig) s = dropped ∧ exec (.commitStart ig) s = dropped ∧
      exec (.wrCfgWidth v) s = dropped ∧ exec (.wrCfgHeight v) s = dropped ∧ exec (.wrCfgPalSize v) s = dropped ∧
      exec (.wrFrameSize v) s = dropped ∧ (i.toNat < s.paletteMax → exec (.wrPal i v) s = dropped) ∧
      exec (.wrbBuf j b) s = dropped) ∧
    (s.paletteMax ≤ i.toNat → exec (.wrPal i v) s = .next s)

/-! ## Host writes -/

/-- The 32-bit writes at 0x008, 0x00C, 0x010 and 0x014 store `v[15:0]` in CFG_WIDTH and CFG_HEIGHT, `v[7:0]` in
CFG_PALSIZE and v in FRAME_SIZE, whatever the value, and nothing else changes; while BUSY each is dropped and only WBUSY is
set (R89 to R92). -/
def Obligations.ConfigurationWritesStoreLowBits : Prop :=
  ∀ (v : Word) (s : State),
    (decodeTxn s.bufferMax (Txn.ofKey 0x50008 v) = .wrCfgWidth v ∧ decodeTxn s.bufferMax (Txn.ofKey 0x5000C v) = .wrCfgHeight v ∧
      decodeTxn s.bufferMax (Txn.ofKey 0x50010 v) = .wrCfgPalSize v ∧ decodeTxn s.bufferMax (Txn.ofKey 0x50014 v) = .wrFrameSize v) ∧
    (s.busy = false →
      exec (.wrCfgWidth v) s = .next { s with cfgWidth := BitVec.ofNat 16 (v.toNat % 65536) } ∧
      exec (.wrCfgHeight v) s = .next { s with cfgHeight := BitVec.ofNat 16 (v.toNat % 65536) } ∧
      exec (.wrCfgPalSize v) s = .next { s with cfgPalSize := BitVec.ofNat 8 (v.toNat % 256) } ∧
      exec (.wrFrameSize v) s = .next { s with frameSize := v }) ∧
    (s.busy = true →
      exec (.wrCfgWidth v) s = .next { s with wbusy := true } ∧ exec (.wrCfgHeight v) s = .next { s with wbusy := true } ∧
      exec (.wrCfgPalSize v) s = .next { s with wbusy := true } ∧
      exec (.wrFrameSize v) s = .next { s with wbusy := true })

/-- The 32-bit write at `0x040 + 4*i` stores `v[15:0]` in palette entry i, which becomes written; every other entry reads
as before, and nothing else changes, no payload byte and no framebuffer pixel; while BUSY it is dropped and only WBUSY is
set (R93). It holds of the entries the rule has, 0 to PALETTE_MAX-1. -/
def Obligations.PaletteWriteStoresLowHalf : Prop :=
  ∀ (i : BitVec 4) (v : Word) (s : State),
    decodeTxn s.bufferMax (Txn.ofKey (0x50040 + BitVec.ofNat 19 (4 * i.toNat)) v) = .wrPal i v ∧
    (i.toNat < s.paletteMax → s.busy = false → ∃ t, exec (.wrPal i v) s = .next t ∧
      Memory.read t.pal i.toNat = some (BitVec.ofNat 16 (v.toNat % 65536)) ∧
      (∀ k, k ≠ i.toNat → Memory.read t.pal k = Memory.read s.pal k) ∧
      t = { s with pal := t.pal }) ∧
    (i.toNat < s.paletteMax → s.busy = true → exec (.wrPal i v) s = .next { s with wbusy := true })

/-- The 8-bit write at `0x8000 + j`, j below BUFFER_MAX, stores its byte in BUF[j], which becomes written; every other
payload byte reads as before, and nothing else changes; while BUSY it is dropped and only WBUSY is set (R94). -/
def Obligations.PayloadWriteStoresByte : Prop :=
  ∀ (j : BitVec 15) (b : Byte) (s : State),
    (j.toNat < s.bufferMax → decodeTxn s.bufferMax (Txn.ofKey (0x18000 + BitVec.ofNat 19 j.toNat) (b.setWidth 32)) = .wrbBuf j b) ∧
    (s.busy = false → ∃ t, exec (.wrbBuf j b) s = .next t ∧
      Memory.read t.buf j.toNat = some b ∧
      (∀ k, k ≠ j.toNat → Memory.read t.buf k = Memory.read s.buf k) ∧
      t = { s with buf := t.buf }) ∧
    (s.busy = true → exec (.wrbBuf j b) s = .next { s with wbusy := true })

/-- The 32-bit write at 0x004 clears WBUSY when `v[3] = 1` and does nothing otherwise, whatever BUSY is (R95). -/
def Obligations.StatusWriteClearsOnlyWbusy : Prop :=
  ∀ (v : Word) (s : State),
    decodeTxn s.bufferMax (Txn.ofKey 0x50004 v) = .wrStatus v ∧
    (v.getLsbD 3 = true → exec (.wrStatus v) s = .next { s with wbusy := false }) ∧
    (v.getLsbD 3 = false → exec (.wrStatus v) s = .next s)

/-- A write to one of the ten read-only registers at 0x018..0x03C or to a reserved location, of either admitted width,
does nothing, whatever BUSY is, and does not set WBUSY (R96); nor does a CTRL write with `data[1:0] = 00` (R97). -/
def Obligations.WritesWithoutEffectDoNothing : Prop :=
  ∀ (v : Word) (off : Half) (b : Byte) (ig : BitVec 30) (s : State),
    (decodeTxn s.bufferMax (Txn.ofKey 0x50018 v) = .wrActWidth v ∧ decodeTxn s.bufferMax (Txn.ofKey 0x5001C v) = .wrActHeight v ∧
      decodeTxn s.bufferMax (Txn.ofKey 0x50020 v) = .wrActPalSize v ∧ decodeTxn s.bufferMax (Txn.ofKey 0x50024 v) = .wrScale v ∧
      decodeTxn s.bufferMax (Txn.ofKey 0x50028 v) = .wrXoff v ∧ decodeTxn s.bufferMax (Txn.ofKey 0x5002C v) = .wrYoff v ∧
      decodeTxn s.bufferMax (Txn.ofKey 0x50030 v) = .wrCurPx v ∧ decodeTxn s.bufferMax (Txn.ofKey 0x50034 v) = .wrCurPy v ∧
      decodeTxn s.bufferMax (Txn.ofKey 0x50038 v) = .wrCurRp v ∧ decodeTxn s.bufferMax (Txn.ofKey 0x5003C v) = .wrCurRun v ∧
      (0x80 ≤ off.toNat → off.toNat ≤ 0x7FFC → off.toNat % 4 = 0 → decodeTxn s.bufferMax ⟨2, .write, off, v⟩ = .wrRsvd off v) ∧
      (0x8000 + s.bufferMax ≤ off.toNat → decodeTxn s.bufferMax ⟨0, .write, off, b.setWidth 32⟩ = .wrbRsvd off b)) ∧
    exec (.ctrlNop ig) s = .next s ∧
    exec (.wrActWidth v) s = .next s ∧ exec (.wrActHeight v) s = .next s ∧ exec (.wrActPalSize v) s = .next s ∧
    exec (.wrScale v) s = .next s ∧ exec (.wrXoff v) s = .next s ∧ exec (.wrYoff v) s = .next s ∧
    exec (.wrCurPx v) s = .next s ∧ exec (.wrCurPy v) s = .next s ∧ exec (.wrCurRp v) s = .next s ∧
    exec (.wrCurRun v) s = .next s ∧ exec (.wrRsvd off v) s = .next s ∧ exec (.wrbRsvd off b) s = .next s

/-! ## Host reads -/

/-- The 32-bit read at the offset of each of the fourteen registers returns its value zero-extended to 32 bits, and nothing
else changes (R83); the value of CUR_RUN is `CIDX ++ REM` (R40). -/
def Obligations.RegisterReadsReturnValue : Prop :=
  ∀ (v : Word) (s : State),
    let returns (n : Nat) : Host.Outcome State Fault Refusal := .next { s with reply := some (.word (BitVec.ofNat 32 n)) }
    (decodeTxn s.bufferMax (Txn.ofKey 0x40008 v) = .rdCfgWidth ∧ decodeTxn s.bufferMax (Txn.ofKey 0x4000C v) = .rdCfgHeight ∧
      decodeTxn s.bufferMax (Txn.ofKey 0x40010 v) = .rdCfgPalSize ∧ decodeTxn s.bufferMax (Txn.ofKey 0x40014 v) = .rdFrameSize ∧
      decodeTxn s.bufferMax (Txn.ofKey 0x40018 v) = .rdActWidth ∧ decodeTxn s.bufferMax (Txn.ofKey 0x4001C v) = .rdActHeight ∧
      decodeTxn s.bufferMax (Txn.ofKey 0x40020 v) = .rdActPalSize ∧ decodeTxn s.bufferMax (Txn.ofKey 0x40024 v) = .rdScale ∧
      decodeTxn s.bufferMax (Txn.ofKey 0x40028 v) = .rdXoff ∧ decodeTxn s.bufferMax (Txn.ofKey 0x4002C v) = .rdYoff ∧
      decodeTxn s.bufferMax (Txn.ofKey 0x40030 v) = .rdCurPx ∧ decodeTxn s.bufferMax (Txn.ofKey 0x40034 v) = .rdCurPy ∧
      decodeTxn s.bufferMax (Txn.ofKey 0x40038 v) = .rdCurRp ∧ decodeTxn s.bufferMax (Txn.ofKey 0x4003C v) = .rdCurRun) ∧
    exec .rdCfgWidth s = returns s.cfgWidth.toNat ∧ exec .rdCfgHeight s = returns s.cfgHeight.toNat ∧
    exec .rdCfgPalSize s = returns s.cfgPalSize.toNat ∧ exec .rdFrameSize s = returns s.frameSize.toNat ∧
    exec .rdActWidth s = returns s.actWidth.toNat ∧ exec .rdActHeight s = returns s.actHeight.toNat ∧
    exec .rdActPalSize s = returns s.actPalSize.toNat ∧ exec .rdScale s = returns s.scale.toNat ∧
    exec .rdXoff s = returns s.xoff.toNat ∧ exec .rdYoff s = returns s.yoff.toNat ∧
    exec .rdCurPx s = returns s.px.toNat ∧ exec .rdCurPy s = returns s.py.toNat ∧
    exec .rdCurRp s = returns s.rp.toNat ∧ exec .rdCurRun s = returns (s.cidx.toNat * 256 + s.rem.toNat)

/-- The 32-bit read at 0x000 returns 0 and the one at 0x004 returns the fields of STATUS at their places: BUSY bit 0, DONE
bit 1, CFG_VALID bit 2, WBUSY bit 3, RESULT bits 7:4, CFGERR bits 11:8, FSERR bits 13:12, bits 31:14 zero; nothing else
changes (R84, R85). The codes are those of R23, R24 and R25: RESULT 0 NONE, 1 END, 2 CLAMP, 3 CORRUPT, 4 NOCFG; CFGERR 0
NONE, 1 WIDTH, 2 HEIGHT, 3 PALSIZE; FSERR 0 NONE, 1 ZERO, 2 ODD, 3 TOO_BIG. -/
def Obligations.ControlAndStatusReads : Prop :=
  (([.none, .endOfPayload, .clamp, .corrupt, .noCfg] : List Result).map (·.code.toNat) = [0, 1, 2, 3, 4] ∧
    ([.none, .width, .height, .palSize] : List CfgErr).map (·.code.toNat) = [0, 1, 2, 3] ∧
    ([.none, .zero, .odd, .tooBig] : List FsErr).map (·.code.toNat) = [0, 1, 2, 3]) ∧
  ∀ (v : Word) (s : State),
    decodeTxn s.bufferMax (Txn.ofKey 0x40000 v) = .rdCtrl ∧ decodeTxn s.bufferMax (Txn.ofKey 0x40004 v) = .rdStatus ∧
    exec .rdCtrl s = .next { s with reply := some (.word 0) } ∧
    exec .rdStatus s = .next { s with reply := some (.word (BitVec.ofNat 32
      (s.busy.toNat + 2 * s.done.toNat + 4 * s.cfgValid.toNat + 8 * s.wbusy.toNat + 16 * s.result.code.toNat +
        256 * s.cfgErr.code.toNat + 4096 * s.fsErr.code.toNat))) }

/-- A read of a reserved location of an admitted width, 32 bits at a multiple of 4 in 0x080..0x7FFC or 8 bits at
0x8000+BUFFER_MAX..0xFFFF, returns 0, and nothing else changes (R88). -/
def Obligations.ReservedReadsReturnZero : Prop :=
  ∀ (off : Half) (v : Word) (s : State),
    (0x80 ≤ off.toNat → off.toNat ≤ 0x7FFC → off.toNat % 4 = 0 → decodeTxn s.bufferMax ⟨2, .read, off, v⟩ = .rdRsvd off) ∧
    (0x8000 + s.bufferMax ≤ off.toNat → decodeTxn s.bufferMax ⟨0, .read, off, v⟩ = .rdbRsvd off) ∧
    exec (.rdRsvd off) s = .next { s with reply := some (.word 0) } ∧
    exec (.rdbRsvd off) s = .next { s with reply := some (.byte 0) }

/-- The 32-bit read at `0x040 + 4*i` returns palette entry i zero-extended, and the 8-bit read at `0x8000 + j`, j below
BUFFER_MAX, returns payload byte j, where they have been written since reset, and nothing else changes; where they have
not, the read raises Unwritten (R86, R87). It holds of the entries the rules
have, 0 to PALETTE_MAX-1. -/
def Obligations.TableReadsReturnWrittenCells : Prop :=
  ∀ (s : State) (i : BitVec 4) (j : BitVec 15) (d : Word),
    decodeTxn s.bufferMax (Txn.ofKey (0x40040 + BitVec.ofNat 19 (4 * i.toNat)) d) = .rdPal i ∧
    (j.toNat < s.bufferMax → decodeTxn s.bufferMax (Txn.ofKey (0x08000 + BitVec.ofNat 19 j.toNat) d) = .rdbBuf j) ∧
    (∀ v, i.toNat < s.paletteMax → Memory.read s.pal i.toNat = some v →
      exec (.rdPal i) s = .next { s with reply := some (.word (BitVec.ofNat 32 v.toNat)) }) ∧
    (i.toNat < s.paletteMax → Memory.read s.pal i.toNat = none →
      exec (.rdPal i) s = .fault (.unwritten .pal i.toNat)) ∧
    (∀ b, Memory.read s.buf j.toNat = some b → exec (.rdbBuf j) s = .next { s with reply := some (.byte b) }) ∧
    (Memory.read s.buf j.toNat = none → exec (.rdbBuf j) s = .fault (.unwritten .buf j.toNat))

/-- No host read has a side effect, and repeating a read with nothing else between gives the same value (R60). A
read at a palette offset past entry PALETTE_MAX-1 returns 0 (the model's choice: log 29). -/
def Obligations.ReadsHaveNoSideEffect : Prop :=
  (∀ (i : Instr) (s t : State), IsRead i → exec i s = .next t →
    t = { s with reply := t.reply } ∧ exec i t = .next t) ∧
  ∀ (k : BitVec 4) (s : State), s.paletteMax ≤ k.toNat →
    exec (.rdPal k) s = .next { s with reply := some (.word 0) }

/-! ## Model-level faults -/

/-- A 16-bit access, an access of no width, a 32-bit access at or above 0x8000 and an 8-bit access below it raise
HostFault(BadWidth), and a misaligned 32-bit access below 0x8000 raises HostFault(Misaligned), whatever the state; an
admitted access raises neither (R57). The same of the five instructions that stand for these accesses. -/
def Obligations.UnadmittedAccessesFault : Prop :=
  (∀ (t : Txn) (s : State),
    (t.wid = 1 ∨ t.wid = 3 → exec (decodeTxn s.bufferMax t) s = .fault (.hostFault .badWidth)) ∧
    (t.wid = 2 → 0x8000 ≤ t.off.toNat → exec (decodeTxn s.bufferMax t) s = .fault (.hostFault .badWidth)) ∧
    (t.wid = 2 → t.off.toNat < 0x8000 → t.off.toNat % 4 ≠ 0 →
      exec (decodeTxn s.bufferMax t) s = .fault (.hostFault .misaligned)) ∧
    (t.wid = 0 → t.off.toNat < 0x8000 → exec (decodeTxn s.bufferMax t) s = .fault (.hostFault .badWidth)) ∧
    (t.wid = 2 ∧ t.off.toNat < 0x8000 ∧ t.off.toNat % 4 = 0 ∨ t.wid = 0 ∧ 0x8000 ≤ t.off.toNat →
      ∀ r, exec (decodeTxn s.bufferMax t) s ≠ .fault (.hostFault r))) ∧
  ∀ (dir : Dir) (off : Half) (s : State),
    exec (.hostFaultW16 dir off) s = .fault (.hostFault .badWidth) ∧
    exec (.hostFaultW3 dir off) s = .fault (.hostFault .badWidth) ∧
    exec (.hostFaultMisaligned dir off) s = .fault (.hostFault .misaligned) ∧
    exec (.hostFaultW32High dir off) s = .fault (.hostFault .badWidth) ∧
    exec (.hostFaultW8Low dir off) s = .fault (.hostFault .badWidth)

/-- A step that faults performs nothing: the recorded run goes on with the state it had, the move passed over and the
fault recorded (R134, R137). That a run goes on is the model's form of the fault set (log 5). -/
def Obligations.FaultingStepChangesNothingElse : Prop :=
  ∀ (s : State) (f : Fault), step s = .fault f →
    f ∈ (recordStep s).faults ∧
    recordStep s = { s with pending := s.pending.tail, faults := (recordStep s).faults }

/-- A recorded fault is cleared by no later step, reset included, so no state after it is final (R134, R146). -/
def Obligations.RecordedFaultsPersist : Prop :=
  ∀ (n : Nat) (s : State) (f : Fault), f ∈ s.faults →
    f ∈ (recordRun n s).faults ∧ ¬(recordRun n s).Final

/-! ## Reset -/

/-- RST makes every register 0 and every palette entry and payload byte unwritten, and leaves the framebuffer and the
recorded faults as they are (R146). That `pending` and `reply` stay is the model's choice (log 15), and the
parameters FB_W, FB_H, PALETTE_MAX and BUFFER_MAX are fixed (log 1, log 23). -/
def Obligations.ResetClearsAllButFramebuffer : Prop :=
  ∀ (s : State) (rest : List Event), s.pending = .reset :: rest →
    step s = .next { State.reset with
      fbW := s.fbW, fbH := s.fbH, paletteMax := s.paletteMax, bufferMax := s.bufferMax
      fb := s.fb, faults := s.faults, pending := rest, reply := s.reply }

/-- The machine after reset: every register and STATUS read 0, the engine is IDLE, no palette entry and no payload byte is
written (R146), and a START is refused with NOCFG, after which STATUS reads 0x42 (R147). -/
def Obligations.ResetStateIsZeroAndRefusesStart : Prop :=
  let s := State.reset
  statusWord s = 0 ∧ s.busy = false ∧ s.done = false ∧ s.cfgValid = false ∧ s.wbusy = false ∧
  s.cfgWidth = 0 ∧ s.cfgHeight = 0 ∧ s.cfgPalSize = 0 ∧ s.frameSize = 0 ∧
  s.actWidth = 0 ∧ s.actHeight = 0 ∧ s.actPalSize = 0 ∧ s.scale = 0 ∧ s.xoff = 0 ∧ s.yoff = 0 ∧
  s.px = 0 ∧ s.py = 0 ∧ s.rp = 0 ∧ s.rem = 0 ∧ s.cidx = 0 ∧
  (∀ i, Memory.read s.pal i = none) ∧ (∀ j, Memory.read s.buf j = none) ∧
  ∀ ig : BitVec 30, ∃ t, exec (.start ig) s = .next t ∧ t.result = .noCfg ∧ t.busy = false ∧ statusWord t = 0x42

/-- The invariant holds after reset: the stores are empty, no configuration is committed, the engine is IDLE with no run,
and no outcome is recorded. -/
def Obligations.ResetMeetsInvariant : Prop :=
  State.reset.Inv

/-! ## Invariants -/

/-- Every step from a state that meets the invariant leads to one that does: the stores canonical and inside their
spaces, the committed configuration in range with its geometry or all zero, and, while BUSY, R46, R47 and R48. The
parameters FB_W, FB_H, PALETTE_MAX and BUFFER_MAX never change (R7 to R9). -/
def Obligations.StepKeepsInvariant : Prop :=
  ∀ s t : State, s.Inv → step s = .next t → t.Inv ∧ s.SameParameters t

/-- Every step keeps the canonical form of the three stores, from every state. -/
def Obligations.StepKeepsStoresCanonical : Prop :=
  ∀ s t : State, Memory.wf s.pal → Memory.wf s.buf → Memory.wf s.fb → step s = .next t →
    Memory.wf t.pal ∧ Memory.wf t.buf ∧ Memory.wf t.fb

/-- `BUSY = 1` and `DONE = 1` never hold together: no step leads from a state without both to one with both (R20). -/
def Obligations.BusyAndDoneStayExclusive : Prop :=
  ∀ s t : State, ¬(s.busy = true ∧ s.done = true) → step s = .next t → ¬(t.busy = true ∧ t.done = true)

/-- While BUSY, no move but RST changes the configuration, the geometry, FRAME_SIZE, the palette or the payload (R48,
R64). -/
def Obligations.DecodeInputsAreConstant : Prop :=
  ∀ s t : State, s.busy = true → s.pending.head? ≠ some .reset → step s = .next t →
    t.cfgWidth = s.cfgWidth ∧ t.cfgHeight = s.cfgHeight ∧ t.cfgPalSize = s.cfgPalSize ∧
    t.actWidth = s.actWidth ∧ t.actHeight = s.actHeight ∧ t.actPalSize = s.actPalSize ∧
    t.scale = s.scale ∧ t.xoff = s.xoff ∧ t.yoff = s.yoff ∧ t.frameSize = s.frameSize ∧
    t.cfgValid = s.cfgValid ∧ t.pal = s.pal ∧ t.buf = s.buf

/-- Once started, a decode stops only by END, by CLAMP or by RST (R115). -/
def Obligations.OnlyFinishOrResetStopsDecode : Prop :=
  ∀ s t : State, s.busy = true → step s = .next t → t.busy = false →
    s.pending.head? = some .reset ∨
    (t.done = true ∧ (t.result = .endOfPayload ∨ t.result = .clamp) ∧
      (s.pending = [] ∨ s.pending.head? = some .engine))

/-- A host operation while BUSY changes nothing the engine reads or writes, so the engine's next step is the same with
and without it: same fault, or next states with the same engine's view (R64, R82). -/
def Obligations.HostCannotDisturbDecode : Prop :=
  ∀ (s t : State) (x : Txn), s.busy = true → exec (decodeTxn s.bufferMax x) s = .next t →
    t.engineView = s.engineView ∧
    (∀ f, engineStep s = .fault f ↔ engineStep t = .fault f) ∧
    (∀ u, engineStep s = .next u → ∃ v, engineStep t = .next v ∧ v.engineView = u.engineView)

/-- A framebuffer pixel changes only in a step of the engine that paints the block it lies in, or when another agent
writes it (R45, R113). -/
def Obligations.PixelsChangeOnlyWhenPainted : Prop :=
  ∀ (s t : State) (x y : Nat), s.Inv → step s = .next t → x < s.fbW → t.pixel x y ≠ s.pixel x y →
    ((s.pending = [] ∨ s.pending.head? = some .engine) ∧
      s.busy = true ∧ s.rem ≠ 0 ∧ s.py.toNat < s.actHeight.toNat ∧ InBlock s s.px.toNat s.py.toNat x y) ∨
    (∃ c, s.pending.head? = some (.display x y c) ∧ y < s.fbH)

/-- Every pixel `blit` writes lies inside the framebuffer, and inside the image rectangle (R124, R126). -/
def Obligations.PaintStaysInsideFramebuffer : Prop :=
  ∀ (s : State) (x y : Nat), s.Inv → s.busy = true → s.py.toNat < s.actHeight.toNat →
    InBlock s s.px.toNat s.py.toNat x y → x < s.fbW ∧ y < s.fbH ∧ InImage s x y

/-- Within a decode the cursor's linear position never goes back: a PAINT raises it by exactly 1, a SKIP by its count,
and no other engine step moves it (R111). -/
def Obligations.CursorMovesInRasterOrder : Prop :=
  ∀ s t : State, s.Inv → s.busy = true → engineStep s = .next t →
    (s.rem ≠ 0 → s.py.toNat < s.actHeight.toNat → t.linear = s.linear + 1) ∧
    (s.rem ≠ 0 → s.actHeight.toNat ≤ s.py.toNat → t.linear = s.linear) ∧
    (s.rem = 0 → s.rp = s.frameSize → t.linear = s.linear) ∧
    (s.rem = 0 → s.rp ≠ s.frameSize → ∃ c i, Memory.read s.buf s.rp.toNat = some c ∧
      Memory.read s.buf (s.rp.toNat + 1) = some i ∧
      t.linear = if i.toNat < s.actPalSize.toNat then s.linear else s.linear + c.toNat)

/-! ## Geometry -/

/-- For every framebuffer and every width and height COMMIT accepts on it: (a) the scale is the largest integer with which
the scaled image fits the framebuffer, and at least 1; (b) it is at most the framebuffer's smaller side; (c) XOFF is at most
`(FB_W - 1) div 2`, reached at 1 x FB_H, where the scale is 1; (d) YOFF is at most `(FB_H - 1) div 2`, reached at FB_W x 1,
where the scale is 1; (e) `XOFF + w*s ≤ FB_W` and `YOFF + h*s ≤ FB_H`. At the defaults the three bounds are 216, with
equality only at 1 x 1, 191 and 107 (R120). -/
def Obligations.GeometryFitsFramebuffer : Prop :=
  (∀ fbW fbH w h : Nat, 1 ≤ w → w ≤ fbW → 1 ≤ h → h ≤ fbH →
    let s := geoScale fbW fbH w h
    (1 ≤ s ∧ w * s ≤ fbW ∧ h * s ≤ fbH ∧ ∀ k, w * k ≤ fbW → h * k ≤ fbH → k ≤ s) ∧
    s ≤ min fbW fbH ∧
    (geoXoff fbW w s ≤ (fbW - 1) / 2 ∧ geoScale fbW fbH 1 fbH = 1 ∧ geoXoff fbW 1 1 = (fbW - 1) / 2) ∧
    (geoYoff fbH h s ≤ (fbH - 1) / 2 ∧ geoScale fbW fbH fbW 1 = 1 ∧ geoYoff fbH 1 1 = (fbH - 1) / 2) ∧
    geoXoff fbW w s + w * s ≤ fbW ∧ geoYoff fbH h s + h * s ≤ fbH) ∧
  (∀ w h : Nat, 1 ≤ w → w ≤ 384 → 1 ≤ h → h ≤ 216 → (geoScale 384 216 w h = 216 ↔ w = 1 ∧ h = 1)) ∧
  min 384 216 = 216 ∧ (384 - 1) / 2 = 191 ∧ (216 - 1) / 2 = 107

/-- The scaled image is centred to within one pixel: the right margin is XOFF when `FB_W - w*s` is even and XOFF + 1 when
it is odd, and the same of YOFF and the bottom margin (R121). -/
def Obligations.ImageCentredWithinOnePixel : Prop :=
  ∀ fbW fbH w h : Nat, 1 ≤ w → w ≤ fbW → 1 ≤ h → h ≤ fbH →
    let s := geoScale fbW fbH w h
    ((fbW - w * s) % 2 = 0 → fbW - geoXoff fbW w s - w * s = geoXoff fbW w s) ∧
    ((fbW - w * s) % 2 = 1 → fbW - geoXoff fbW w s - w * s = geoXoff fbW w s + 1) ∧
    ((fbH - h * s) % 2 = 0 → fbH - geoYoff fbH h s - h * s = geoYoff fbH h s) ∧
    ((fbH - h * s) % 2 = 1 → fbH - geoYoff fbH h s - h * s = geoYoff fbH h s + 1)

/-- The blocks of distinct logical pixels are disjoint, and the blocks of all `W*H` logical pixels exactly tile the image
rectangle (R125). -/
def Obligations.BlocksTileImageRectangle : Prop :=
  ∀ s : State, 0 < s.scale.toNat →
    (∀ px py px' py' x y, InBlock s px py x y → InBlock s px' py' x y → px = px' ∧ py = py') ∧
    ∀ x y, InImage s x y ↔ ∃ px py, px < s.actWidth.toNat ∧ py < s.actHeight.toNat ∧ InBlock s px py x y

/-- Pixel `(x, y)` is at byte address `FB_BASE + 2*(y*FB_W + x)`, its most significant byte first or last by
FB_BYTE_ORDER (R51, R56). -/
def Obligations.PixelsLieRowMajorInDisplayMemory : Prop :=
  ∀ (base x y : Nat) (s : State), x < s.fbW → y < s.fbH →
    let a := base + 2 * (y * s.fbW + x)
    let hi := BitVec.ofNat 8 ((s.pixel x y).toNat / 256)
    let lo := BitVec.ofNat 8 ((s.pixel x y).toNat % 256)
    s.displayByteAt base .big a = some hi ∧ s.displayByteAt base .big (a + 1) = some lo ∧
    s.displayByteAt base .little a = some lo ∧ s.displayByteAt base .little (a + 1) = some hi

/-! ## A whole decode -/

/-- Every accepted START whose payload and palette have been written reaches `finish` after at most
`FRAME_SIZE/2 + W*H + 1` engine steps, whatever host operations and other agents' writes are pending, in whatever order, as
long as no RST is (R114, R115). Under the model's schedule (log 6, log 8) that takes no more steps in all than there are
pending events and twice that bound. -/
def Obligations.DecodeFinishesWithinBound : Prop :=
  ∀ s : State, s.Inv → s.DecodeBegins → s.Loaded → Event.reset ∉ s.pending →
    let bound := s.frameSize.toNat / 2 + s.actWidth.toNat * s.actHeight.toNat + 1
    ∃ n, (recordRun n s).busy = false ∧ (recordRun n s).done = true ∧
      ((recordRun n s).result = .endOfPayload ∨ (recordRun n s).result = .clamp) ∧
      engineStepsIn n s ≤ bound ∧ n ≤ s.pending.length + 2 * bound

/-- A payload of RUNs whose counts sum to exactly `W*H` reproduces the canvas in raster order: logical pixel `(x, y)` is
painted with `PAL[k]`, where k is the index at position `y*W + x` of the pixel stream; the decode ends with END, cursor
`(0, H)` and `RP = FRAME_SIZE` (R112). Framebuffer pixels outside the image keep their values (R113, R126). It holds
whatever host operations are pending, in whatever order, as long as neither RST nor another agent's framebuffer write is
(R152). -/
def Obligations.ExactPayloadReproducesCanvas : Prop :=
  ∀ (s : State) (payload : List Byte) (colour : Byte → Half), s.Inv → s.DecodeBegins →
    (∀ e ∈ s.pending, e.leavesPicture = true) →
    payload.length = s.frameSize.toNat →
    (∀ j, j < payload.length → Memory.read s.buf j = payload[j]?) →
    (∀ i : Byte, i.toNat < s.actPalSize.toNat → Memory.read s.pal i.toNat = some (colour i)) →
    everyRunBelow s.actPalSize.toNat payload = true →
    runLengthSum payload = s.actWidth.toNat * s.actHeight.toNat →
    ∃ n t, recordRun n s = t ∧ t.busy = false ∧ t.result = .endOfPayload ∧
      t.px.toNat = 0 ∧ t.py.toNat = s.actHeight.toNat ∧ t.rp = s.frameSize ∧
      (∀ x y, x < s.actWidth.toNat → y < s.actHeight.toNat →
        ∃ i, (pixelStream payload)[y * s.actWidth.toNat + x]? = some i ∧
          ∀ fx fy, InBlock s x y fx fy → t.pixel fx fy = colour i) ∧
      ∀ fx fy, fx < s.fbW → ¬InImage s fx fy → t.pixel fx fy = s.pixel fx fy

/-! ## The container file and the assembler -/

/-- The header is 11 bytes: frameCount at 0, width at 4, height at 6, frameRate at 8, each with its most significant byte
first, and paletteSize at 10; palette entry k is the big-endian u16 at file offset `11 + 2*k`. Reading the file back gives
the header's fields and the palette's entries (R53, R66, R67). -/
def Obligations.ContainerReadsBackHeaderAndPalette : Prop :=
  ∀ (h : Header) (palette : List Half) (rest : List Byte),
    let file := h.toBytes ++ paletteBytes palette ++ rest
    h.toBytes.length = 11 ∧ (paletteBytes palette).length = 2 * palette.length ∧
    (∀ k, k < 4 → file[k]? = some (BitVec.ofNat 8 (h.frameCount.toNat / 256 ^ (3 - k)))) ∧
    (file[4]? = some (BitVec.ofNat 8 (h.width.toNat / 256)) ∧ file[5]? = some (BitVec.ofNat 8 h.width.toNat)) ∧
    (file[6]? = some (BitVec.ofNat 8 (h.height.toNat / 256)) ∧ file[7]? = some (BitVec.ofNat 8 h.height.toNat)) ∧
    (file[8]? = some (BitVec.ofNat 8 (h.frameRate.toNat / 256)) ∧ file[9]? = some (BitVec.ofNat 8 h.frameRate.toNat)) ∧
    file[10]? = some h.paletteSize ∧
    (∀ k colour, palette[k]? = some colour → paletteEntryOffset k = 11 + 2 * k ∧
      file[11 + 2 * k]? = some (BitVec.ofNat 8 (colour.toNat / 256)) ∧
      file[12 + 2 * k]? = some (BitVec.ofNat 8 colour.toNat)) ∧
    readHeader file = some (h, paletteBytes palette ++ rest) ∧
    readPalette palette.length (paletteBytes palette ++ rest) = some (palette, rest)

/-- A frame record is its size, four bytes with the most significant first, and then its payload; it reads back as these,
and record n+1 starts `4 + frameSize` after record n (R53, R68). -/
def Obligations.FrameRecordsFollowEachOther : Prop :=
  (∀ payload rest : List Byte, payload.length < 2 ^ 32 →
    (∀ k, k < 4 → (frameBytes payload ++ rest)[k]? = some (BitVec.ofNat 8 (payload.length / 256 ^ (3 - k)))) ∧
    (∀ k, k < payload.length → (frameBytes payload ++ rest)[4 + k]? = payload[k]?) ∧
    readFrame (frameBytes payload ++ rest) = some (BitVec.ofNat 32 payload.length, payload, rest)) ∧
  ∀ (p n : Nat) (sizes : List Nat) (size : Nat), sizes[n]? = some size →
    frameOffset p sizes 0 = 11 + 2 * p ∧ frameOffset p sizes (n + 1) = frameOffset p sizes n + 4 + size

/-- A header is invalid unless width is in 1..FB_W, height in 1..FB_H, frameRate is positive and paletteSize in
1..PALETTE_MAX, which at the defaults is 1..384, 1..216 and 1..16, and a
frame record is corrupt unless its size is positive, even and at most BUFFER_MAX. COMMIT's check is the header's validity
but for frameRate, which is the host's to check, and START's check is the frame's corruption (R69). -/
def Obligations.ContainerValidityIsCommitAndStart : Prop :=
  (∀ (fbW fbH palMax : Nat) (h : Header),
    (h.valid fbW fbH palMax = true ↔
      (0 < h.width.toNat ∧ h.width.toNat ≤ fbW) ∧ (0 < h.height.toNat ∧ h.height.toNat ≤ fbH) ∧
      0 < h.frameRate.toNat ∧ (0 < h.paletteSize.toNat ∧ h.paletteSize.toNat ≤ palMax)) ∧
    (h.valid fbW fbH palMax = true ↔
      0 < h.frameRate.toNat ∧ cfgErrOf fbW fbH palMax h.width.toNat h.height.toNat h.paletteSize.toNat = .none)) ∧
  (Config.FB_W = 384 ∧ Config.FB_H = 216 ∧ Config.PALETTE_MAX = 16 ∧ Config.BUFFER_MAX = 30000) ∧
  ∀ bufMax size : Nat,
    (frameCorrupt bufMax size = true ↔ ¬(0 < size ∧ size % 2 = 0 ∧ size ≤ bufMax)) ∧
    (frameCorrupt bufMax size = true ↔ fsErrOf bufMax size ≠ .none)

/-- `FILL n, i` assembles to whole runs of index i whose counts sum to n: `floor(n/255)` runs of 255, then one of
`n mod 255` if that is not 0, and nothing for `n = 0`; `SKIPPX n` is `FILL n, 0xFF` (R79). -/
def Obligations.FillCoversItsPixels : Prop :=
  ∀ (n : Nat) (i : Byte),
    runLengthSum (fillBytes n i) = n ∧
    pixelStream (fillBytes n i) = List.replicate n i ∧
    (fillBytes n i).length = 2 * ((n + 254) / 255) ∧
    (∀ k, k < n / 255 → (fillBytes n i)[2 * k]? = some 255) ∧
    (n % 255 ≠ 0 → (fillBytes n i)[2 * (n / 255)]? = some (BitVec.ofNat 8 (n % 255))) ∧
    (∀ k, k < (n + 254) / 255 → (fillBytes n i)[2 * k + 1]? = some i) ∧
    (PayloadLine.skippx n).assemble = (PayloadLine.fill n 0xFF).assemble ∧
    (PayloadLine.fill n i).assemble = fillBytes n i
end

