-- ==== Sys2Proof/Laws/State.lean ====
section
/-! SUPPORT. What each named update of State leaves in each field, so that no proof unfolds a record update. -/

namespace Sys2Proof.Machine

variable (s : State)

/-! ### answer -/

@[simp] theorem State.answer_fbW (r : Reply) : (s.answer r).fbW = s.fbW := rfl
@[simp] theorem State.answer_fbH (r : Reply) : (s.answer r).fbH = s.fbH := rfl
@[simp] theorem State.answer_paletteMax (r : Reply) : (s.answer r).paletteMax = s.paletteMax := rfl
@[simp] theorem State.answer_bufferMax (r : Reply) : (s.answer r).bufferMax = s.bufferMax := rfl
@[simp] theorem State.answer_busy (r : Reply) : (s.answer r).busy = s.busy := rfl
@[simp] theorem State.answer_done (r : Reply) : (s.answer r).done = s.done := rfl
@[simp] theorem State.answer_cfgValid (r : Reply) : (s.answer r).cfgValid = s.cfgValid := rfl
@[simp] theorem State.answer_wbusy (r : Reply) : (s.answer r).wbusy = s.wbusy := rfl
@[simp] theorem State.answer_result (r : Reply) : (s.answer r).result = s.result := rfl
@[simp] theorem State.answer_cfgErr (r : Reply) : (s.answer r).cfgErr = s.cfgErr := rfl
@[simp] theorem State.answer_fsErr (r : Reply) : (s.answer r).fsErr = s.fsErr := rfl
@[simp] theorem State.answer_cfgWidth (r : Reply) : (s.answer r).cfgWidth = s.cfgWidth := rfl
@[simp] theorem State.answer_cfgHeight (r : Reply) : (s.answer r).cfgHeight = s.cfgHeight := rfl
@[simp] theorem State.answer_cfgPalSize (r : Reply) : (s.answer r).cfgPalSize = s.cfgPalSize := rfl
@[simp] theorem State.answer_frameSize (r : Reply) : (s.answer r).frameSize = s.frameSize := rfl
@[simp] theorem State.answer_actWidth (r : Reply) : (s.answer r).actWidth = s.actWidth := rfl
@[simp] theorem State.answer_actHeight (r : Reply) : (s.answer r).actHeight = s.actHeight := rfl
@[simp] theorem State.answer_actPalSize (r : Reply) : (s.answer r).actPalSize = s.actPalSize := rfl
@[simp] theorem State.answer_scale (r : Reply) : (s.answer r).scale = s.scale := rfl
@[simp] theorem State.answer_xoff (r : Reply) : (s.answer r).xoff = s.xoff := rfl
@[simp] theorem State.answer_yoff (r : Reply) : (s.answer r).yoff = s.yoff := rfl
@[simp] theorem State.answer_px (r : Reply) : (s.answer r).px = s.px := rfl
@[simp] theorem State.answer_py (r : Reply) : (s.answer r).py = s.py := rfl
@[simp] theorem State.answer_rp (r : Reply) : (s.answer r).rp = s.rp := rfl
@[simp] theorem State.answer_rem (r : Reply) : (s.answer r).rem = s.rem := rfl
@[simp] theorem State.answer_cidx (r : Reply) : (s.answer r).cidx = s.cidx := rfl
@[simp] theorem State.answer_pal (r : Reply) : (s.answer r).pal = s.pal := rfl
@[simp] theorem State.answer_buf (r : Reply) : (s.answer r).buf = s.buf := rfl
@[simp] theorem State.answer_fb (r : Reply) : (s.answer r).fb = s.fb := rfl
@[simp] theorem State.answer_faults (r : Reply) : (s.answer r).faults = s.faults := rfl
@[simp] theorem State.answer_pending (r : Reply) : (s.answer r).pending = s.pending := rfl
@[simp] theorem State.answer_reply (r : Reply) : (s.answer r).reply = some r := rfl

/-! ### stopHost -/

@[simp] theorem State.stopHost_fbW : (s.stopHost).fbW = s.fbW := rfl
@[simp] theorem State.stopHost_fbH : (s.stopHost).fbH = s.fbH := rfl
@[simp] theorem State.stopHost_paletteMax : (s.stopHost).paletteMax = s.paletteMax := rfl
@[simp] theorem State.stopHost_bufferMax : (s.stopHost).bufferMax = s.bufferMax := rfl
@[simp] theorem State.stopHost_busy : (s.stopHost).busy = s.busy := rfl
@[simp] theorem State.stopHost_done : (s.stopHost).done = s.done := rfl
@[simp] theorem State.stopHost_cfgValid : (s.stopHost).cfgValid = s.cfgValid := rfl
@[simp] theorem State.stopHost_wbusy : (s.stopHost).wbusy = s.wbusy := rfl
@[simp] theorem State.stopHost_result : (s.stopHost).result = s.result := rfl
@[simp] theorem State.stopHost_cfgErr : (s.stopHost).cfgErr = s.cfgErr := rfl
@[simp] theorem State.stopHost_fsErr : (s.stopHost).fsErr = s.fsErr := rfl
@[simp] theorem State.stopHost_cfgWidth : (s.stopHost).cfgWidth = s.cfgWidth := rfl
@[simp] theorem State.stopHost_cfgHeight : (s.stopHost).cfgHeight = s.cfgHeight := rfl
@[simp] theorem State.stopHost_cfgPalSize : (s.stopHost).cfgPalSize = s.cfgPalSize := rfl
@[simp] theorem State.stopHost_frameSize : (s.stopHost).frameSize = s.frameSize := rfl
@[simp] theorem State.stopHost_actWidth : (s.stopHost).actWidth = s.actWidth := rfl
@[simp] theorem State.stopHost_actHeight : (s.stopHost).actHeight = s.actHeight := rfl
@[simp] theorem State.stopHost_actPalSize : (s.stopHost).actPalSize = s.actPalSize := rfl
@[simp] theorem State.stopHost_scale : (s.stopHost).scale = s.scale := rfl
@[simp] theorem State.stopHost_xoff : (s.stopHost).xoff = s.xoff := rfl
@[simp] theorem State.stopHost_yoff : (s.stopHost).yoff = s.yoff := rfl
@[simp] theorem State.stopHost_px : (s.stopHost).px = s.px := rfl
@[simp] theorem State.stopHost_py : (s.stopHost).py = s.py := rfl
@[simp] theorem State.stopHost_rp : (s.stopHost).rp = s.rp := rfl
@[simp] theorem State.stopHost_rem : (s.stopHost).rem = s.rem := rfl
@[simp] theorem State.stopHost_cidx : (s.stopHost).cidx = s.cidx := rfl
@[simp] theorem State.stopHost_pal : (s.stopHost).pal = s.pal := rfl
@[simp] theorem State.stopHost_buf : (s.stopHost).buf = s.buf := rfl
@[simp] theorem State.stopHost_fb : (s.stopHost).fb = s.fb := rfl
@[simp] theorem State.stopHost_faults : (s.stopHost).faults = s.faults := rfl
@[simp] theorem State.stopHost_pending : (s.stopHost).pending = s.pending.filter fun e => !e.isHost := rfl
@[simp] theorem State.stopHost_reply : (s.stopHost).reply = s.reply := rfl

/-! ### dropWrite -/

@[simp] theorem State.dropWrite_fbW : (s.dropWrite).fbW = s.fbW := rfl
@[simp] theorem State.dropWrite_fbH : (s.dropWrite).fbH = s.fbH := rfl
@[simp] theorem State.dropWrite_paletteMax : (s.dropWrite).paletteMax = s.paletteMax := rfl
@[simp] theorem State.dropWrite_bufferMax : (s.dropWrite).bufferMax = s.bufferMax := rfl
@[simp] theorem State.dropWrite_busy : (s.dropWrite).busy = s.busy := rfl
@[simp] theorem State.dropWrite_done : (s.dropWrite).done = s.done := rfl
@[simp] theorem State.dropWrite_cfgValid : (s.dropWrite).cfgValid = s.cfgValid := rfl
@[simp] theorem State.dropWrite_wbusy : (s.dropWrite).wbusy = true := rfl
@[simp] theorem State.dropWrite_result : (s.dropWrite).result = s.result := rfl
@[simp] theorem State.dropWrite_cfgErr : (s.dropWrite).cfgErr = s.cfgErr := rfl
@[simp] theorem State.dropWrite_fsErr : (s.dropWrite).fsErr = s.fsErr := rfl
@[simp] theorem State.dropWrite_cfgWidth : (s.dropWrite).cfgWidth = s.cfgWidth := rfl
@[simp] theorem State.dropWrite_cfgHeight : (s.dropWrite).cfgHeight = s.cfgHeight := rfl
@[simp] theorem State.dropWrite_cfgPalSize : (s.dropWrite).cfgPalSize = s.cfgPalSize := rfl
@[simp] theorem State.dropWrite_frameSize : (s.dropWrite).frameSize = s.frameSize := rfl
@[simp] theorem State.dropWrite_actWidth : (s.dropWrite).actWidth = s.actWidth := rfl
@[simp] theorem State.dropWrite_actHeight : (s.dropWrite).actHeight = s.actHeight := rfl
@[simp] theorem State.dropWrite_actPalSize : (s.dropWrite).actPalSize = s.actPalSize := rfl
@[simp] theorem State.dropWrite_scale : (s.dropWrite).scale = s.scale := rfl
@[simp] theorem State.dropWrite_xoff : (s.dropWrite).xoff = s.xoff := rfl
@[simp] theorem State.dropWrite_yoff : (s.dropWrite).yoff = s.yoff := rfl
@[simp] theorem State.dropWrite_px : (s.dropWrite).px = s.px := rfl
@[simp] theorem State.dropWrite_py : (s.dropWrite).py = s.py := rfl
@[simp] theorem State.dropWrite_rp : (s.dropWrite).rp = s.rp := rfl
@[simp] theorem State.dropWrite_rem : (s.dropWrite).rem = s.rem := rfl
@[simp] theorem State.dropWrite_cidx : (s.dropWrite).cidx = s.cidx := rfl
@[simp] theorem State.dropWrite_pal : (s.dropWrite).pal = s.pal := rfl
@[simp] theorem State.dropWrite_buf : (s.dropWrite).buf = s.buf := rfl
@[simp] theorem State.dropWrite_fb : (s.dropWrite).fb = s.fb := rfl
@[simp] theorem State.dropWrite_faults : (s.dropWrite).faults = s.faults := rfl
@[simp] theorem State.dropWrite_pending : (s.dropWrite).pending = s.pending := rfl
@[simp] theorem State.dropWrite_reply : (s.dropWrite).reply = s.reply := rfl

/-! ### clearWbusy -/

@[simp] theorem State.clearWbusy_fbW : (s.clearWbusy).fbW = s.fbW := rfl
@[simp] theorem State.clearWbusy_fbH : (s.clearWbusy).fbH = s.fbH := rfl
@[simp] theorem State.clearWbusy_paletteMax : (s.clearWbusy).paletteMax = s.paletteMax := rfl
@[simp] theorem State.clearWbusy_bufferMax : (s.clearWbusy).bufferMax = s.bufferMax := rfl
@[simp] theorem State.clearWbusy_busy : (s.clearWbusy).busy = s.busy := rfl
@[simp] theorem State.clearWbusy_done : (s.clearWbusy).done = s.done := rfl
@[simp] theorem State.clearWbusy_cfgValid : (s.clearWbusy).cfgValid = s.cfgValid := rfl
@[simp] theorem State.clearWbusy_wbusy : (s.clearWbusy).wbusy = false := rfl
@[simp] theorem State.clearWbusy_result : (s.clearWbusy).result = s.result := rfl
@[simp] theorem State.clearWbusy_cfgErr : (s.clearWbusy).cfgErr = s.cfgErr := rfl
@[simp] theorem State.clearWbusy_fsErr : (s.clearWbusy).fsErr = s.fsErr := rfl
@[simp] theorem State.clearWbusy_cfgWidth : (s.clearWbusy).cfgWidth = s.cfgWidth := rfl
@[simp] theorem State.clearWbusy_cfgHeight : (s.clearWbusy).cfgHeight = s.cfgHeight := rfl
@[simp] theorem State.clearWbusy_cfgPalSize : (s.clearWbusy).cfgPalSize = s.cfgPalSize := rfl
@[simp] theorem State.clearWbusy_frameSize : (s.clearWbusy).frameSize = s.frameSize := rfl
@[simp] theorem State.clearWbusy_actWidth : (s.clearWbusy).actWidth = s.actWidth := rfl
@[simp] theorem State.clearWbusy_actHeight : (s.clearWbusy).actHeight = s.actHeight := rfl
@[simp] theorem State.clearWbusy_actPalSize : (s.clearWbusy).actPalSize = s.actPalSize := rfl
@[simp] theorem State.clearWbusy_scale : (s.clearWbusy).scale = s.scale := rfl
@[simp] theorem State.clearWbusy_xoff : (s.clearWbusy).xoff = s.xoff := rfl
@[simp] theorem State.clearWbusy_yoff : (s.clearWbusy).yoff = s.yoff := rfl
@[simp] theorem State.clearWbusy_px : (s.clearWbusy).px = s.px := rfl
@[simp] theorem State.clearWbusy_py : (s.clearWbusy).py = s.py := rfl
@[simp] theorem State.clearWbusy_rp : (s.clearWbusy).rp = s.rp := rfl
@[simp] theorem State.clearWbusy_rem : (s.clearWbusy).rem = s.rem := rfl
@[simp] theorem State.clearWbusy_cidx : (s.clearWbusy).cidx = s.cidx := rfl
@[simp] theorem State.clearWbusy_pal : (s.clearWbusy).pal = s.pal := rfl
@[simp] theorem State.clearWbusy_buf : (s.clearWbusy).buf = s.buf := rfl
@[simp] theorem State.clearWbusy_fb : (s.clearWbusy).fb = s.fb := rfl
@[simp] theorem State.clearWbusy_faults : (s.clearWbusy).faults = s.faults := rfl
@[simp] theorem State.clearWbusy_pending : (s.clearWbusy).pending = s.pending := rfl
@[simp] theorem State.clearWbusy_reply : (s.clearWbusy).reply = s.reply := rfl

/-! ### putCfgWidth -/

@[simp] theorem State.putCfgWidth_fbW (v : Half) : (s.putCfgWidth v).fbW = s.fbW := rfl
@[simp] theorem State.putCfgWidth_fbH (v : Half) : (s.putCfgWidth v).fbH = s.fbH := rfl
@[simp] theorem State.putCfgWidth_paletteMax (v : Half) : (s.putCfgWidth v).paletteMax = s.paletteMax := rfl
@[simp] theorem State.putCfgWidth_bufferMax (v : Half) : (s.putCfgWidth v).bufferMax = s.bufferMax := rfl
@[simp] theorem State.putCfgWidth_busy (v : Half) : (s.putCfgWidth v).busy = s.busy := rfl
@[simp] theorem State.putCfgWidth_done (v : Half) : (s.putCfgWidth v).done = s.done := rfl
@[simp] theorem State.putCfgWidth_cfgValid (v : Half) : (s.putCfgWidth v).cfgValid = s.cfgValid := rfl
@[simp] theorem State.putCfgWidth_wbusy (v : Half) : (s.putCfgWidth v).wbusy = s.wbusy := rfl
@[simp] theorem State.putCfgWidth_result (v : Half) : (s.putCfgWidth v).result = s.result := rfl
@[simp] theorem State.putCfgWidth_cfgErr (v : Half) : (s.putCfgWidth v).cfgErr = s.cfgErr := rfl
@[simp] theorem State.putCfgWidth_fsErr (v : Half) : (s.putCfgWidth v).fsErr = s.fsErr := rfl
@[simp] theorem State.putCfgWidth_cfgWidth (v : Half) : (s.putCfgWidth v).cfgWidth = v := rfl
@[simp] theorem State.putCfgWidth_cfgHeight (v : Half) : (s.putCfgWidth v).cfgHeight = s.cfgHeight := rfl
@[simp] theorem State.putCfgWidth_cfgPalSize (v : Half) : (s.putCfgWidth v).cfgPalSize = s.cfgPalSize := rfl
@[simp] theorem State.putCfgWidth_frameSize (v : Half) : (s.putCfgWidth v).frameSize = s.frameSize := rfl
@[simp] theorem State.putCfgWidth_actWidth (v : Half) : (s.putCfgWidth v).actWidth = s.actWidth := rfl
@[simp] theorem State.putCfgWidth_actHeight (v : Half) : (s.putCfgWidth v).actHeight = s.actHeight := rfl
@[simp] theorem State.putCfgWidth_actPalSize (v : Half) : (s.putCfgWidth v).actPalSize = s.actPalSize := rfl
@[simp] theorem State.putCfgWidth_scale (v : Half) : (s.putCfgWidth v).scale = s.scale := rfl
@[simp] theorem State.putCfgWidth_xoff (v : Half) : (s.putCfgWidth v).xoff = s.xoff := rfl
@[simp] theorem State.putCfgWidth_yoff (v : Half) : (s.putCfgWidth v).yoff = s.yoff := rfl
@[simp] theorem State.putCfgWidth_px (v : Half) : (s.putCfgWidth v).px = s.px := rfl
@[simp] theorem State.putCfgWidth_py (v : Half) : (s.putCfgWidth v).py = s.py := rfl
@[simp] theorem State.putCfgWidth_rp (v : Half) : (s.putCfgWidth v).rp = s.rp := rfl
@[simp] theorem State.putCfgWidth_rem (v : Half) : (s.putCfgWidth v).rem = s.rem := rfl
@[simp] theorem State.putCfgWidth_cidx (v : Half) : (s.putCfgWidth v).cidx = s.cidx := rfl
@[simp] theorem State.putCfgWidth_pal (v : Half) : (s.putCfgWidth v).pal = s.pal := rfl
@[simp] theorem State.putCfgWidth_buf (v : Half) : (s.putCfgWidth v).buf = s.buf := rfl
@[simp] theorem State.putCfgWidth_fb (v : Half) : (s.putCfgWidth v).fb = s.fb := rfl
@[simp] theorem State.putCfgWidth_faults (v : Half) : (s.putCfgWidth v).faults = s.faults := rfl
@[simp] theorem State.putCfgWidth_pending (v : Half) : (s.putCfgWidth v).pending = s.pending := rfl
@[simp] theorem State.putCfgWidth_reply (v : Half) : (s.putCfgWidth v).reply = s.reply := rfl

/-! ### putCfgHeight -/

@[simp] theorem State.putCfgHeight_fbW (v : Half) : (s.putCfgHeight v).fbW = s.fbW := rfl
@[simp] theorem State.putCfgHeight_fbH (v : Half) : (s.putCfgHeight v).fbH = s.fbH := rfl
@[simp] theorem State.putCfgHeight_paletteMax (v : Half) : (s.putCfgHeight v).paletteMax = s.paletteMax := rfl
@[simp] theorem State.putCfgHeight_bufferMax (v : Half) : (s.putCfgHeight v).bufferMax = s.bufferMax := rfl
@[simp] theorem State.putCfgHeight_busy (v : Half) : (s.putCfgHeight v).busy = s.busy := rfl
@[simp] theorem State.putCfgHeight_done (v : Half) : (s.putCfgHeight v).done = s.done := rfl
@[simp] theorem State.putCfgHeight_cfgValid (v : Half) : (s.putCfgHeight v).cfgValid = s.cfgValid := rfl
@[simp] theorem State.putCfgHeight_wbusy (v : Half) : (s.putCfgHeight v).wbusy = s.wbusy := rfl
@[simp] theorem State.putCfgHeight_result (v : Half) : (s.putCfgHeight v).result = s.result := rfl
@[simp] theorem State.putCfgHeight_cfgErr (v : Half) : (s.putCfgHeight v).cfgErr = s.cfgErr := rfl
@[simp] theorem State.putCfgHeight_fsErr (v : Half) : (s.putCfgHeight v).fsErr = s.fsErr := rfl
@[simp] theorem State.putCfgHeight_cfgWidth (v : Half) : (s.putCfgHeight v).cfgWidth = s.cfgWidth := rfl
@[simp] theorem State.putCfgHeight_cfgHeight (v : Half) : (s.putCfgHeight v).cfgHeight = v := rfl
@[simp] theorem State.putCfgHeight_cfgPalSize (v : Half) : (s.putCfgHeight v).cfgPalSize = s.cfgPalSize := rfl
@[simp] theorem State.putCfgHeight_frameSize (v : Half) : (s.putCfgHeight v).frameSize = s.frameSize := rfl
@[simp] theorem State.putCfgHeight_actWidth (v : Half) : (s.putCfgHeight v).actWidth = s.actWidth := rfl
@[simp] theorem State.putCfgHeight_actHeight (v : Half) : (s.putCfgHeight v).actHeight = s.actHeight := rfl
@[simp] theorem State.putCfgHeight_actPalSize (v : Half) : (s.putCfgHeight v).actPalSize = s.actPalSize := rfl
@[simp] theorem State.putCfgHeight_scale (v : Half) : (s.putCfgHeight v).scale = s.scale := rfl
@[simp] theorem State.putCfgHeight_xoff (v : Half) : (s.putCfgHeight v).xoff = s.xoff := rfl
@[simp] theorem State.putCfgHeight_yoff (v : Half) : (s.putCfgHeight v).yoff = s.yoff := rfl
@[simp] theorem State.putCfgHeight_px (v : Half) : (s.putCfgHeight v).px = s.px := rfl
@[simp] theorem State.putCfgHeight_py (v : Half) : (s.putCfgHeight v).py = s.py := rfl
@[simp] theorem State.putCfgHeight_rp (v : Half) : (s.putCfgHeight v).rp = s.rp := rfl
@[simp] theorem State.putCfgHeight_rem (v : Half) : (s.putCfgHeight v).rem = s.rem := rfl
@[simp] theorem State.putCfgHeight_cidx (v : Half) : (s.putCfgHeight v).cidx = s.cidx := rfl
@[simp] theorem State.putCfgHeight_pal (v : Half) : (s.putCfgHeight v).pal = s.pal := rfl
@[simp] theorem State.putCfgHeight_buf (v : Half) : (s.putCfgHeight v).buf = s.buf := rfl
@[simp] theorem State.putCfgHeight_fb (v : Half) : (s.putCfgHeight v).fb = s.fb := rfl
@[simp] theorem State.putCfgHeight_faults (v : Half) : (s.putCfgHeight v).faults = s.faults := rfl
@[simp] theorem State.putCfgHeight_pending (v : Half) : (s.putCfgHeight v).pending = s.pending := rfl
@[simp] theorem State.putCfgHeight_reply (v : Half) : (s.putCfgHeight v).reply = s.reply := rfl

/-! ### putCfgPalSize -/

@[simp] theorem State.putCfgPalSize_fbW (v : Byte) : (s.putCfgPalSize v).fbW = s.fbW := rfl
@[simp] theorem State.putCfgPalSize_fbH (v : Byte) : (s.putCfgPalSize v).fbH = s.fbH := rfl
@[simp] theorem State.putCfgPalSize_paletteMax (v : Byte) : (s.putCfgPalSize v).paletteMax = s.paletteMax := rfl
@[simp] theorem State.putCfgPalSize_bufferMax (v : Byte) : (s.putCfgPalSize v).bufferMax = s.bufferMax := rfl
@[simp] theorem State.putCfgPalSize_busy (v : Byte) : (s.putCfgPalSize v).busy = s.busy := rfl
@[simp] theorem State.putCfgPalSize_done (v : Byte) : (s.putCfgPalSize v).done = s.done := rfl
@[simp] theorem State.putCfgPalSize_cfgValid (v : Byte) : (s.putCfgPalSize v).cfgValid = s.cfgValid := rfl
@[simp] theorem State.putCfgPalSize_wbusy (v : Byte) : (s.putCfgPalSize v).wbusy = s.wbusy := rfl
@[simp] theorem State.putCfgPalSize_result (v : Byte) : (s.putCfgPalSize v).result = s.result := rfl
@[simp] theorem State.putCfgPalSize_cfgErr (v : Byte) : (s.putCfgPalSize v).cfgErr = s.cfgErr := rfl
@[simp] theorem State.putCfgPalSize_fsErr (v : Byte) : (s.putCfgPalSize v).fsErr = s.fsErr := rfl
@[simp] theorem State.putCfgPalSize_cfgWidth (v : Byte) : (s.putCfgPalSize v).cfgWidth = s.cfgWidth := rfl
@[simp] theorem State.putCfgPalSize_cfgHeight (v : Byte) : (s.putCfgPalSize v).cfgHeight = s.cfgHeight := rfl
@[simp] theorem State.putCfgPalSize_cfgPalSize (v : Byte) : (s.putCfgPalSize v).cfgPalSize = v := rfl
@[simp] theorem State.putCfgPalSize_frameSize (v : Byte) : (s.putCfgPalSize v).frameSize = s.frameSize := rfl
@[simp] theorem State.putCfgPalSize_actWidth (v : Byte) : (s.putCfgPalSize v).actWidth = s.actWidth := rfl
@[simp] theorem State.putCfgPalSize_actHeight (v : Byte) : (s.putCfgPalSize v).actHeight = s.actHeight := rfl
@[simp] theorem State.putCfgPalSize_actPalSize (v : Byte) : (s.putCfgPalSize v).actPalSize = s.actPalSize := rfl
@[simp] theorem State.putCfgPalSize_scale (v : Byte) : (s.putCfgPalSize v).scale = s.scale := rfl
@[simp] theorem State.putCfgPalSize_xoff (v : Byte) : (s.putCfgPalSize v).xoff = s.xoff := rfl
@[simp] theorem State.putCfgPalSize_yoff (v : Byte) : (s.putCfgPalSize v).yoff = s.yoff := rfl
@[simp] theorem State.putCfgPalSize_px (v : Byte) : (s.putCfgPalSize v).px = s.px := rfl
@[simp] theorem State.putCfgPalSize_py (v : Byte) : (s.putCfgPalSize v).py = s.py := rfl
@[simp] theorem State.putCfgPalSize_rp (v : Byte) : (s.putCfgPalSize v).rp = s.rp := rfl
@[simp] theorem State.putCfgPalSize_rem (v : Byte) : (s.putCfgPalSize v).rem = s.rem := rfl
@[simp] theorem State.putCfgPalSize_cidx (v : Byte) : (s.putCfgPalSize v).cidx = s.cidx := rfl
@[simp] theorem State.putCfgPalSize_pal (v : Byte) : (s.putCfgPalSize v).pal = s.pal := rfl
@[simp] theorem State.putCfgPalSize_buf (v : Byte) : (s.putCfgPalSize v).buf = s.buf := rfl
@[simp] theorem State.putCfgPalSize_fb (v : Byte) : (s.putCfgPalSize v).fb = s.fb := rfl
@[simp] theorem State.putCfgPalSize_faults (v : Byte) : (s.putCfgPalSize v).faults = s.faults := rfl
@[simp] theorem State.putCfgPalSize_pending (v : Byte) : (s.putCfgPalSize v).pending = s.pending := rfl
@[simp] theorem State.putCfgPalSize_reply (v : Byte) : (s.putCfgPalSize v).reply = s.reply := rfl

/-! ### putFrameSize -/

@[simp] theorem State.putFrameSize_fbW (v : Word) : (s.putFrameSize v).fbW = s.fbW := rfl
@[simp] theorem State.putFrameSize_fbH (v : Word) : (s.putFrameSize v).fbH = s.fbH := rfl
@[simp] theorem State.putFrameSize_paletteMax (v : Word) : (s.putFrameSize v).paletteMax = s.paletteMax := rfl
@[simp] theorem State.putFrameSize_bufferMax (v : Word) : (s.putFrameSize v).bufferMax = s.bufferMax := rfl
@[simp] theorem State.putFrameSize_busy (v : Word) : (s.putFrameSize v).busy = s.busy := rfl
@[simp] theorem State.putFrameSize_done (v : Word) : (s.putFrameSize v).done = s.done := rfl
@[simp] theorem State.putFrameSize_cfgValid (v : Word) : (s.putFrameSize v).cfgValid = s.cfgValid := rfl
@[simp] theorem State.putFrameSize_wbusy (v : Word) : (s.putFrameSize v).wbusy = s.wbusy := rfl
@[simp] theorem State.putFrameSize_result (v : Word) : (s.putFrameSize v).result = s.result := rfl
@[simp] theorem State.putFrameSize_cfgErr (v : Word) : (s.putFrameSize v).cfgErr = s.cfgErr := rfl
@[simp] theorem State.putFrameSize_fsErr (v : Word) : (s.putFrameSize v).fsErr = s.fsErr := rfl
@[simp] theorem State.putFrameSize_cfgWidth (v : Word) : (s.putFrameSize v).cfgWidth = s.cfgWidth := rfl
@[simp] theorem State.putFrameSize_cfgHeight (v : Word) : (s.putFrameSize v).cfgHeight = s.cfgHeight := rfl
@[simp] theorem State.putFrameSize_cfgPalSize (v : Word) : (s.putFrameSize v).cfgPalSize = s.cfgPalSize := rfl
@[simp] theorem State.putFrameSize_frameSize (v : Word) : (s.putFrameSize v).frameSize = v := rfl
@[simp] theorem State.putFrameSize_actWidth (v : Word) : (s.putFrameSize v).actWidth = s.actWidth := rfl
@[simp] theorem State.putFrameSize_actHeight (v : Word) : (s.putFrameSize v).actHeight = s.actHeight := rfl
@[simp] theorem State.putFrameSize_actPalSize (v : Word) : (s.putFrameSize v).actPalSize = s.actPalSize := rfl
@[simp] theorem State.putFrameSize_scale (v : Word) : (s.putFrameSize v).scale = s.scale := rfl
@[simp] theorem State.putFrameSize_xoff (v : Word) : (s.putFrameSize v).xoff = s.xoff := rfl
@[simp] theorem State.putFrameSize_yoff (v : Word) : (s.putFrameSize v).yoff = s.yoff := rfl
@[simp] theorem State.putFrameSize_px (v : Word) : (s.putFrameSize v).px = s.px := rfl
@[simp] theorem State.putFrameSize_py (v : Word) : (s.putFrameSize v).py = s.py := rfl
@[simp] theorem State.putFrameSize_rp (v : Word) : (s.putFrameSize v).rp = s.rp := rfl
@[simp] theorem State.putFrameSize_rem (v : Word) : (s.putFrameSize v).rem = s.rem := rfl
@[simp] theorem State.putFrameSize_cidx (v : Word) : (s.putFrameSize v).cidx = s.cidx := rfl
@[simp] theorem State.putFrameSize_pal (v : Word) : (s.putFrameSize v).pal = s.pal := rfl
@[simp] theorem State.putFrameSize_buf (v : Word) : (s.putFrameSize v).buf = s.buf := rfl
@[simp] theorem State.putFrameSize_fb (v : Word) : (s.putFrameSize v).fb = s.fb := rfl
@[simp] theorem State.putFrameSize_faults (v : Word) : (s.putFrameSize v).faults = s.faults := rfl
@[simp] theorem State.putFrameSize_pending (v : Word) : (s.putFrameSize v).pending = s.pending := rfl
@[simp] theorem State.putFrameSize_reply (v : Word) : (s.putFrameSize v).reply = s.reply := rfl

/-! ### putPal -/

@[simp] theorem State.putPal_fbW (i : Nat) (v : Half) : (s.putPal i v).fbW = s.fbW := rfl
@[simp] theorem State.putPal_fbH (i : Nat) (v : Half) : (s.putPal i v).fbH = s.fbH := rfl
@[simp] theorem State.putPal_paletteMax (i : Nat) (v : Half) : (s.putPal i v).paletteMax = s.paletteMax := rfl
@[simp] theorem State.putPal_bufferMax (i : Nat) (v : Half) : (s.putPal i v).bufferMax = s.bufferMax := rfl
@[simp] theorem State.putPal_busy (i : Nat) (v : Half) : (s.putPal i v).busy = s.busy := rfl
@[simp] theorem State.putPal_done (i : Nat) (v : Half) : (s.putPal i v).done = s.done := rfl
@[simp] theorem State.putPal_cfgValid (i : Nat) (v : Half) : (s.putPal i v).cfgValid = s.cfgValid := rfl
@[simp] theorem State.putPal_wbusy (i : Nat) (v : Half) : (s.putPal i v).wbusy = s.wbusy := rfl
@[simp] theorem State.putPal_result (i : Nat) (v : Half) : (s.putPal i v).result = s.result := rfl
@[simp] theorem State.putPal_cfgErr (i : Nat) (v : Half) : (s.putPal i v).cfgErr = s.cfgErr := rfl
@[simp] theorem State.putPal_fsErr (i : Nat) (v : Half) : (s.putPal i v).fsErr = s.fsErr := rfl
@[simp] theorem State.putPal_cfgWidth (i : Nat) (v : Half) : (s.putPal i v).cfgWidth = s.cfgWidth := rfl
@[simp] theorem State.putPal_cfgHeight (i : Nat) (v : Half) : (s.putPal i v).cfgHeight = s.cfgHeight := rfl
@[simp] theorem State.putPal_cfgPalSize (i : Nat) (v : Half) : (s.putPal i v).cfgPalSize = s.cfgPalSize := rfl
@[simp] theorem State.putPal_frameSize (i : Nat) (v : Half) : (s.putPal i v).frameSize = s.frameSize := rfl
@[simp] theorem State.putPal_actWidth (i : Nat) (v : Half) : (s.putPal i v).actWidth = s.actWidth := rfl
@[simp] theorem State.putPal_actHeight (i : Nat) (v : Half) : (s.putPal i v).actHeight = s.actHeight := rfl
@[simp] theorem State.putPal_actPalSize (i : Nat) (v : Half) : (s.putPal i v).actPalSize = s.actPalSize := rfl
@[simp] theorem State.putPal_scale (i : Nat) (v : Half) : (s.putPal i v).scale = s.scale := rfl
@[simp] theorem State.putPal_xoff (i : Nat) (v : Half) : (s.putPal i v).xoff = s.xoff := rfl
@[simp] theorem State.putPal_yoff (i : Nat) (v : Half) : (s.putPal i v).yoff = s.yoff := rfl
@[simp] theorem State.putPal_px (i : Nat) (v : Half) : (s.putPal i v).px = s.px := rfl
@[simp] theorem State.putPal_py (i : Nat) (v : Half) : (s.putPal i v).py = s.py := rfl
@[simp] theorem State.putPal_rp (i : Nat) (v : Half) : (s.putPal i v).rp = s.rp := rfl
@[simp] theorem State.putPal_rem (i : Nat) (v : Half) : (s.putPal i v).rem = s.rem := rfl
@[simp] theorem State.putPal_cidx (i : Nat) (v : Half) : (s.putPal i v).cidx = s.cidx := rfl
@[simp] theorem State.putPal_pal (i : Nat) (v : Half) : (s.putPal i v).pal = Memory.write s.pal i v := rfl
@[simp] theorem State.putPal_buf (i : Nat) (v : Half) : (s.putPal i v).buf = s.buf := rfl
@[simp] theorem State.putPal_fb (i : Nat) (v : Half) : (s.putPal i v).fb = s.fb := rfl
@[simp] theorem State.putPal_faults (i : Nat) (v : Half) : (s.putPal i v).faults = s.faults := rfl
@[simp] theorem State.putPal_pending (i : Nat) (v : Half) : (s.putPal i v).pending = s.pending := rfl
@[simp] theorem State.putPal_reply (i : Nat) (v : Half) : (s.putPal i v).reply = s.reply := rfl

/-! ### putBuf -/

@[simp] theorem State.putBuf_fbW (j : Nat) (v : Byte) : (s.putBuf j v).fbW = s.fbW := rfl
@[simp] theorem State.putBuf_fbH (j : Nat) (v : Byte) : (s.putBuf j v).fbH = s.fbH := rfl
@[simp] theorem State.putBuf_paletteMax (j : Nat) (v : Byte) : (s.putBuf j v).paletteMax = s.paletteMax := rfl
@[simp] theorem State.putBuf_bufferMax (j : Nat) (v : Byte) : (s.putBuf j v).bufferMax = s.bufferMax := rfl
@[simp] theorem State.putBuf_busy (j : Nat) (v : Byte) : (s.putBuf j v).busy = s.busy := rfl
@[simp] theorem State.putBuf_done (j : Nat) (v : Byte) : (s.putBuf j v).done = s.done := rfl
@[simp] theorem State.putBuf_cfgValid (j : Nat) (v : Byte) : (s.putBuf j v).cfgValid = s.cfgValid := rfl
@[simp] theorem State.putBuf_wbusy (j : Nat) (v : Byte) : (s.putBuf j v).wbusy = s.wbusy := rfl
@[simp] theorem State.putBuf_result (j : Nat) (v : Byte) : (s.putBuf j v).result = s.result := rfl
@[simp] theorem State.putBuf_cfgErr (j : Nat) (v : Byte) : (s.putBuf j v).cfgErr = s.cfgErr := rfl
@[simp] theorem State.putBuf_fsErr (j : Nat) (v : Byte) : (s.putBuf j v).fsErr = s.fsErr := rfl
@[simp] theorem State.putBuf_cfgWidth (j : Nat) (v : Byte) : (s.putBuf j v).cfgWidth = s.cfgWidth := rfl
@[simp] theorem State.putBuf_cfgHeight (j : Nat) (v : Byte) : (s.putBuf j v).cfgHeight = s.cfgHeight := rfl
@[simp] theorem State.putBuf_cfgPalSize (j : Nat) (v : Byte) : (s.putBuf j v).cfgPalSize = s.cfgPalSize := rfl
@[simp] theorem State.putBuf_frameSize (j : Nat) (v : Byte) : (s.putBuf j v).frameSize = s.frameSize := rfl
@[simp] theorem State.putBuf_actWidth (j : Nat) (v : Byte) : (s.putBuf j v).actWidth = s.actWidth := rfl
@[simp] theorem State.putBuf_actHeight (j : Nat) (v : Byte) : (s.putBuf j v).actHeight = s.actHeight := rfl
@[simp] theorem State.putBuf_actPalSize (j : Nat) (v : Byte) : (s.putBuf j v).actPalSize = s.actPalSize := rfl
@[simp] theorem State.putBuf_scale (j : Nat) (v : Byte) : (s.putBuf j v).scale = s.scale := rfl
@[simp] theorem State.putBuf_xoff (j : Nat) (v : Byte) : (s.putBuf j v).xoff = s.xoff := rfl
@[simp] theorem State.putBuf_yoff (j : Nat) (v : Byte) : (s.putBuf j v).yoff = s.yoff := rfl
@[simp] theorem State.putBuf_px (j : Nat) (v : Byte) : (s.putBuf j v).px = s.px := rfl
@[simp] theorem State.putBuf_py (j : Nat) (v : Byte) : (s.putBuf j v).py = s.py := rfl
@[simp] theorem State.putBuf_rp (j : Nat) (v : Byte) : (s.putBuf j v).rp = s.rp := rfl
@[simp] theorem State.putBuf_rem (j : Nat) (v : Byte) : (s.putBuf j v).rem = s.rem := rfl
@[simp] theorem State.putBuf_cidx (j : Nat) (v : Byte) : (s.putBuf j v).cidx = s.cidx := rfl
@[simp] theorem State.putBuf_pal (j : Nat) (v : Byte) : (s.putBuf j v).pal = s.pal := rfl
@[simp] theorem State.putBuf_buf (j : Nat) (v : Byte) : (s.putBuf j v).buf = Memory.write s.buf j v := rfl
@[simp] theorem State.putBuf_fb (j : Nat) (v : Byte) : (s.putBuf j v).fb = s.fb := rfl
@[simp] theorem State.putBuf_faults (j : Nat) (v : Byte) : (s.putBuf j v).faults = s.faults := rfl
@[simp] theorem State.putBuf_pending (j : Nat) (v : Byte) : (s.putBuf j v).pending = s.pending := rfl
@[simp] theorem State.putBuf_reply (j : Nat) (v : Byte) : (s.putBuf j v).reply = s.reply := rfl

/-! ### putPixel -/

@[simp] theorem State.putPixel_fbW (x y : Nat) (c : Half) : (s.putPixel x y c).fbW = s.fbW := rfl
@[simp] theorem State.putPixel_fbH (x y : Nat) (c : Half) : (s.putPixel x y c).fbH = s.fbH := rfl
@[simp] theorem State.putPixel_paletteMax (x y : Nat) (c : Half) : (s.putPixel x y c).paletteMax = s.paletteMax := rfl
@[simp] theorem State.putPixel_bufferMax (x y : Nat) (c : Half) : (s.putPixel x y c).bufferMax = s.bufferMax := rfl
@[simp] theorem State.putPixel_busy (x y : Nat) (c : Half) : (s.putPixel x y c).busy = s.busy := rfl
@[simp] theorem State.putPixel_done (x y : Nat) (c : Half) : (s.putPixel x y c).done = s.done := rfl
@[simp] theorem State.putPixel_cfgValid (x y : Nat) (c : Half) : (s.putPixel x y c).cfgValid = s.cfgValid := rfl
@[simp] theorem State.putPixel_wbusy (x y : Nat) (c : Half) : (s.putPixel x y c).wbusy = s.wbusy := rfl
@[simp] theorem State.putPixel_result (x y : Nat) (c : Half) : (s.putPixel x y c).result = s.result := rfl
@[simp] theorem State.putPixel_cfgErr (x y : Nat) (c : Half) : (s.putPixel x y c).cfgErr = s.cfgErr := rfl
@[simp] theorem State.putPixel_fsErr (x y : Nat) (c : Half) : (s.putPixel x y c).fsErr = s.fsErr := rfl
@[simp] theorem State.putPixel_cfgWidth (x y : Nat) (c : Half) : (s.putPixel x y c).cfgWidth = s.cfgWidth := rfl
@[simp] theorem State.putPixel_cfgHeight (x y : Nat) (c : Half) : (s.putPixel x y c).cfgHeight = s.cfgHeight := rfl
@[simp] theorem State.putPixel_cfgPalSize (x y : Nat) (c : Half) : (s.putPixel x y c).cfgPalSize = s.cfgPalSize := rfl
@[simp] theorem State.putPixel_frameSize (x y : Nat) (c : Half) : (s.putPixel x y c).frameSize = s.frameSize := rfl
@[simp] theorem State.putPixel_actWidth (x y : Nat) (c : Half) : (s.putPixel x y c).actWidth = s.actWidth := rfl
@[simp] theorem State.putPixel_actHeight (x y : Nat) (c : Half) : (s.putPixel x y c).actHeight = s.actHeight := rfl
@[simp] theorem State.putPixel_actPalSize (x y : Nat) (c : Half) : (s.putPixel x y c).actPalSize = s.actPalSize := rfl
@[simp] theorem State.putPixel_scale (x y : Nat) (c : Half) : (s.putPixel x y c).scale = s.scale := rfl
@[simp] theorem State.putPixel_xoff (x y : Nat) (c : Half) : (s.putPixel x y c).xoff = s.xoff := rfl
@[simp] theorem State.putPixel_yoff (x y : Nat) (c : Half) : (s.putPixel x y c).yoff = s.yoff := rfl
@[simp] theorem State.putPixel_px (x y : Nat) (c : Half) : (s.putPixel x y c).px = s.px := rfl
@[simp] theorem State.putPixel_py (x y : Nat) (c : Half) : (s.putPixel x y c).py = s.py := rfl
@[simp] theorem State.putPixel_rp (x y : Nat) (c : Half) : (s.putPixel x y c).rp = s.rp := rfl
@[simp] theorem State.putPixel_rem (x y : Nat) (c : Half) : (s.putPixel x y c).rem = s.rem := rfl
@[simp] theorem State.putPixel_cidx (x y : Nat) (c : Half) : (s.putPixel x y c).cidx = s.cidx := rfl
@[simp] theorem State.putPixel_pal (x y : Nat) (c : Half) : (s.putPixel x y c).pal = s.pal := rfl
@[simp] theorem State.putPixel_buf (x y : Nat) (c : Half) : (s.putPixel x y c).buf = s.buf := rfl
@[simp] theorem State.putPixel_fb (x y : Nat) (c : Half) : (s.putPixel x y c).fb = Memory.write s.fb (pixelIndex s.fbW x y) c := rfl
@[simp] theorem State.putPixel_faults (x y : Nat) (c : Half) : (s.putPixel x y c).faults = s.faults := rfl
@[simp] theorem State.putPixel_pending (x y : Nat) (c : Half) : (s.putPixel x y c).pending = s.pending := rfl
@[simp] theorem State.putPixel_reply (x y : Nat) (c : Half) : (s.putPixel x y c).reply = s.reply := rfl

/-! ### rejectConfig -/

@[simp] theorem State.rejectConfig_fbW (e : CfgErr) : (s.rejectConfig e).fbW = s.fbW := rfl
@[simp] theorem State.rejectConfig_fbH (e : CfgErr) : (s.rejectConfig e).fbH = s.fbH := rfl
@[simp] theorem State.rejectConfig_paletteMax (e : CfgErr) : (s.rejectConfig e).paletteMax = s.paletteMax := rfl
@[simp] theorem State.rejectConfig_bufferMax (e : CfgErr) : (s.rejectConfig e).bufferMax = s.bufferMax := rfl
@[simp] theorem State.rejectConfig_busy (e : CfgErr) : (s.rejectConfig e).busy = s.busy := rfl
@[simp] theorem State.rejectConfig_done (e : CfgErr) : (s.rejectConfig e).done = s.done := rfl
@[simp] theorem State.rejectConfig_cfgValid (e : CfgErr) : (s.rejectConfig e).cfgValid = false := rfl
@[simp] theorem State.rejectConfig_wbusy (e : CfgErr) : (s.rejectConfig e).wbusy = s.wbusy := rfl
@[simp] theorem State.rejectConfig_result (e : CfgErr) : (s.rejectConfig e).result = s.result := rfl
@[simp] theorem State.rejectConfig_cfgErr (e : CfgErr) : (s.rejectConfig e).cfgErr = e := rfl
@[simp] theorem State.rejectConfig_fsErr (e : CfgErr) : (s.rejectConfig e).fsErr = s.fsErr := rfl
@[simp] theorem State.rejectConfig_cfgWidth (e : CfgErr) : (s.rejectConfig e).cfgWidth = s.cfgWidth := rfl
@[simp] theorem State.rejectConfig_cfgHeight (e : CfgErr) : (s.rejectConfig e).cfgHeight = s.cfgHeight := rfl
@[simp] theorem State.rejectConfig_cfgPalSize (e : CfgErr) : (s.rejectConfig e).cfgPalSize = s.cfgPalSize := rfl
@[simp] theorem State.rejectConfig_frameSize (e : CfgErr) : (s.rejectConfig e).frameSize = s.frameSize := rfl
@[simp] theorem State.rejectConfig_actWidth (e : CfgErr) : (s.rejectConfig e).actWidth = 0 := rfl
@[simp] theorem State.rejectConfig_actHeight (e : CfgErr) : (s.rejectConfig e).actHeight = 0 := rfl
@[simp] theorem State.rejectConfig_actPalSize (e : CfgErr) : (s.rejectConfig e).actPalSize = 0 := rfl
@[simp] theorem State.rejectConfig_scale (e : CfgErr) : (s.rejectConfig e).scale = 0 := rfl
@[simp] theorem State.rejectConfig_xoff (e : CfgErr) : (s.rejectConfig e).xoff = 0 := rfl
@[simp] theorem State.rejectConfig_yoff (e : CfgErr) : (s.rejectConfig e).yoff = 0 := rfl
@[simp] theorem State.rejectConfig_px (e : CfgErr) : (s.rejectConfig e).px = s.px := rfl
@[simp] theorem State.rejectConfig_py (e : CfgErr) : (s.rejectConfig e).py = s.py := rfl
@[simp] theorem State.rejectConfig_rp (e : CfgErr) : (s.rejectConfig e).rp = s.rp := rfl
@[simp] theorem State.rejectConfig_rem (e : CfgErr) : (s.rejectConfig e).rem = s.rem := rfl
@[simp] theorem State.rejectConfig_cidx (e : CfgErr) : (s.rejectConfig e).cidx = s.cidx := rfl
@[simp] theorem State.rejectConfig_pal (e : CfgErr) : (s.rejectConfig e).pal = s.pal := rfl
@[simp] theorem State.rejectConfig_buf (e : CfgErr) : (s.rejectConfig e).buf = s.buf := rfl
@[simp] theorem State.rejectConfig_fb (e : CfgErr) : (s.rejectConfig e).fb = s.fb := rfl
@[simp] theorem State.rejectConfig_faults (e : CfgErr) : (s.rejectConfig e).faults = s.faults := rfl
@[simp] theorem State.rejectConfig_pending (e : CfgErr) : (s.rejectConfig e).pending = s.pending := rfl
@[simp] theorem State.rejectConfig_reply (e : CfgErr) : (s.rejectConfig e).reply = s.reply := rfl

/-! ### latchConfig -/

@[simp] theorem State.latchConfig_fbW (w h : Half) (p : Byte) (sc : Nat) : (s.latchConfig w h p sc).fbW = s.fbW := rfl
@[simp] theorem State.latchConfig_fbH (w h : Half) (p : Byte) (sc : Nat) : (s.latchConfig w h p sc).fbH = s.fbH := rfl
@[simp] theorem State.latchConfig_paletteMax (w h : Half) (p : Byte) (sc : Nat) : (s.latchConfig w h p sc).paletteMax = s.paletteMax := rfl
@[simp] theorem State.latchConfig_bufferMax (w h : Half) (p : Byte) (sc : Nat) : (s.latchConfig w h p sc).bufferMax = s.bufferMax := rfl
@[simp] theorem State.latchConfig_busy (w h : Half) (p : Byte) (sc : Nat) : (s.latchConfig w h p sc).busy = s.busy := rfl
@[simp] theorem State.latchConfig_done (w h : Half) (p : Byte) (sc : Nat) : (s.latchConfig w h p sc).done = s.done := rfl
@[simp] theorem State.latchConfig_cfgValid (w h : Half) (p : Byte) (sc : Nat) : (s.latchConfig w h p sc).cfgValid = true := rfl
@[simp] theorem State.latchConfig_wbusy (w h : Half) (p : Byte) (sc : Nat) : (s.latchConfig w h p sc).wbusy = s.wbusy := rfl
@[simp] theorem State.latchConfig_result (w h : Half) (p : Byte) (sc : Nat) : (s.latchConfig w h p sc).result = s.result := rfl
@[simp] theorem State.latchConfig_cfgErr (w h : Half) (p : Byte) (sc : Nat) : (s.latchConfig w h p sc).cfgErr = .none := rfl
@[simp] theorem State.latchConfig_fsErr (w h : Half) (p : Byte) (sc : Nat) : (s.latchConfig w h p sc).fsErr = s.fsErr := rfl
@[simp] theorem State.latchConfig_cfgWidth (w h : Half) (p : Byte) (sc : Nat) : (s.latchConfig w h p sc).cfgWidth = s.cfgWidth := rfl
@[simp] theorem State.latchConfig_cfgHeight (w h : Half) (p : Byte) (sc : Nat) : (s.latchConfig w h p sc).cfgHeight = s.cfgHeight := rfl
@[simp] theorem State.latchConfig_cfgPalSize (w h : Half) (p : Byte) (sc : Nat) : (s.latchConfig w h p sc).cfgPalSize = s.cfgPalSize := rfl
@[simp] theorem State.latchConfig_frameSize (w h : Half) (p : Byte) (sc : Nat) : (s.latchConfig w h p sc).frameSize = s.frameSize := rfl
@[simp] theorem State.latchConfig_actWidth (w h : Half) (p : Byte) (sc : Nat) : (s.latchConfig w h p sc).actWidth = w := rfl
@[simp] theorem State.latchConfig_actHeight (w h : Half) (p : Byte) (sc : Nat) : (s.latchConfig w h p sc).actHeight = h := rfl
@[simp] theorem State.latchConfig_actPalSize (w h : Half) (p : Byte) (sc : Nat) : (s.latchConfig w h p sc).actPalSize = p := rfl
@[simp] theorem State.latchConfig_scale (w h : Half) (p : Byte) (sc : Nat) : (s.latchConfig w h p sc).scale = BitVec.ofNat 16 sc := rfl
@[simp] theorem State.latchConfig_xoff (w h : Half) (p : Byte) (sc : Nat) : (s.latchConfig w h p sc).xoff = BitVec.ofNat 16 (geoXoff s.fbW w.toNat sc) := rfl
@[simp] theorem State.latchConfig_yoff (w h : Half) (p : Byte) (sc : Nat) : (s.latchConfig w h p sc).yoff = BitVec.ofNat 16 (geoYoff s.fbH h.toNat sc) := rfl
@[simp] theorem State.latchConfig_px (w h : Half) (p : Byte) (sc : Nat) : (s.latchConfig w h p sc).px = s.px := rfl
@[simp] theorem State.latchConfig_py (w h : Half) (p : Byte) (sc : Nat) : (s.latchConfig w h p sc).py = s.py := rfl
@[simp] theorem State.latchConfig_rp (w h : Half) (p : Byte) (sc : Nat) : (s.latchConfig w h p sc).rp = s.rp := rfl
@[simp] theorem State.latchConfig_rem (w h : Half) (p : Byte) (sc : Nat) : (s.latchConfig w h p sc).rem = s.rem := rfl
@[simp] theorem State.latchConfig_cidx (w h : Half) (p : Byte) (sc : Nat) : (s.latchConfig w h p sc).cidx = s.cidx := rfl
@[simp] theorem State.latchConfig_pal (w h : Half) (p : Byte) (sc : Nat) : (s.latchConfig w h p sc).pal = s.pal := rfl
@[simp] theorem State.latchConfig_buf (w h : Half) (p : Byte) (sc : Nat) : (s.latchConfig w h p sc).buf = s.buf := rfl
@[simp] theorem State.latchConfig_fb (w h : Half) (p : Byte) (sc : Nat) : (s.latchConfig w h p sc).fb = s.fb := rfl
@[simp] theorem State.latchConfig_faults (w h : Half) (p : Byte) (sc : Nat) : (s.latchConfig w h p sc).faults = s.faults := rfl
@[simp] theorem State.latchConfig_pending (w h : Half) (p : Byte) (sc : Nat) : (s.latchConfig w h p sc).pending = s.pending := rfl
@[simp] theorem State.latchConfig_reply (w h : Half) (p : Byte) (sc : Nat) : (s.latchConfig w h p sc).reply = s.reply := rfl

/-! ### refuseStart -/

@[simp] theorem State.refuseStart_fbW (r : Result) (e : FsErr) : (s.refuseStart r e).fbW = s.fbW := rfl
@[simp] theorem State.refuseStart_fbH (r : Result) (e : FsErr) : (s.refuseStart r e).fbH = s.fbH := rfl
@[simp] theorem State.refuseStart_paletteMax (r : Result) (e : FsErr) : (s.refuseStart r e).paletteMax = s.paletteMax := rfl
@[simp] theorem State.refuseStart_bufferMax (r : Result) (e : FsErr) : (s.refuseStart r e).bufferMax = s.bufferMax := rfl
@[simp] theorem State.refuseStart_busy (r : Result) (e : FsErr) : (s.refuseStart r e).busy = s.busy := rfl
@[simp] theorem State.refuseStart_done (r : Result) (e : FsErr) : (s.refuseStart r e).done = true := rfl
@[simp] theorem State.refuseStart_cfgValid (r : Result) (e : FsErr) : (s.refuseStart r e).cfgValid = s.cfgValid := rfl
@[simp] theorem State.refuseStart_wbusy (r : Result) (e : FsErr) : (s.refuseStart r e).wbusy = s.wbusy := rfl
@[simp] theorem State.refuseStart_result (r : Result) (e : FsErr) : (s.refuseStart r e).result = r := rfl
@[simp] theorem State.refuseStart_cfgErr (r : Result) (e : FsErr) : (s.refuseStart r e).cfgErr = s.cfgErr := rfl
@[simp] theorem State.refuseStart_fsErr (r : Result) (e : FsErr) : (s.refuseStart r e).fsErr = e := rfl
@[simp] theorem State.refuseStart_cfgWidth (r : Result) (e : FsErr) : (s.refuseStart r e).cfgWidth = s.cfgWidth := rfl
@[simp] theorem State.refuseStart_cfgHeight (r : Result) (e : FsErr) : (s.refuseStart r e).cfgHeight = s.cfgHeight := rfl
@[simp] theorem State.refuseStart_cfgPalSize (r : Result) (e : FsErr) : (s.refuseStart r e).cfgPalSize = s.cfgPalSize := rfl
@[simp] theorem State.refuseStart_frameSize (r : Result) (e : FsErr) : (s.refuseStart r e).frameSize = s.frameSize := rfl
@[simp] theorem State.refuseStart_actWidth (r : Result) (e : FsErr) : (s.refuseStart r e).actWidth = s.actWidth := rfl
@[simp] theorem State.refuseStart_actHeight (r : Result) (e : FsErr) : (s.refuseStart r e).actHeight = s.actHeight := rfl
@[simp] theorem State.refuseStart_actPalSize (r : Result) (e : FsErr) : (s.refuseStart r e).actPalSize = s.actPalSize := rfl
@[simp] theorem State.refuseStart_scale (r : Result) (e : FsErr) : (s.refuseStart r e).scale = s.scale := rfl
@[simp] theorem State.refuseStart_xoff (r : Result) (e : FsErr) : (s.refuseStart r e).xoff = s.xoff := rfl
@[simp] theorem State.refuseStart_yoff (r : Result) (e : FsErr) : (s.refuseStart r e).yoff = s.yoff := rfl
@[simp] theorem State.refuseStart_px (r : Result) (e : FsErr) : (s.refuseStart r e).px = s.px := rfl
@[simp] theorem State.refuseStart_py (r : Result) (e : FsErr) : (s.refuseStart r e).py = s.py := rfl
@[simp] theorem State.refuseStart_rp (r : Result) (e : FsErr) : (s.refuseStart r e).rp = s.rp := rfl
@[simp] theorem State.refuseStart_rem (r : Result) (e : FsErr) : (s.refuseStart r e).rem = s.rem := rfl
@[simp] theorem State.refuseStart_cidx (r : Result) (e : FsErr) : (s.refuseStart r e).cidx = s.cidx := rfl
@[simp] theorem State.refuseStart_pal (r : Result) (e : FsErr) : (s.refuseStart r e).pal = s.pal := rfl
@[simp] theorem State.refuseStart_buf (r : Result) (e : FsErr) : (s.refuseStart r e).buf = s.buf := rfl
@[simp] theorem State.refuseStart_fb (r : Result) (e : FsErr) : (s.refuseStart r e).fb = s.fb := rfl
@[simp] theorem State.refuseStart_faults (r : Result) (e : FsErr) : (s.refuseStart r e).faults = s.faults := rfl
@[simp] theorem State.refuseStart_pending (r : Result) (e : FsErr) : (s.refuseStart r e).pending = s.pending := rfl
@[simp] theorem State.refuseStart_reply (r : Result) (e : FsErr) : (s.refuseStart r e).reply = s.reply := rfl

/-! ### beginDecode -/

@[simp] theorem State.beginDecode_fbW : (s.beginDecode).fbW = s.fbW := rfl
@[simp] theorem State.beginDecode_fbH : (s.beginDecode).fbH = s.fbH := rfl
@[simp] theorem State.beginDecode_paletteMax : (s.beginDecode).paletteMax = s.paletteMax := rfl
@[simp] theorem State.beginDecode_bufferMax : (s.beginDecode).bufferMax = s.bufferMax := rfl
@[simp] theorem State.beginDecode_busy : (s.beginDecode).busy = true := rfl
@[simp] theorem State.beginDecode_done : (s.beginDecode).done = false := rfl
@[simp] theorem State.beginDecode_cfgValid : (s.beginDecode).cfgValid = s.cfgValid := rfl
@[simp] theorem State.beginDecode_wbusy : (s.beginDecode).wbusy = s.wbusy := rfl
@[simp] theorem State.beginDecode_result : (s.beginDecode).result = .none := rfl
@[simp] theorem State.beginDecode_cfgErr : (s.beginDecode).cfgErr = s.cfgErr := rfl
@[simp] theorem State.beginDecode_fsErr : (s.beginDecode).fsErr = .none := rfl
@[simp] theorem State.beginDecode_cfgWidth : (s.beginDecode).cfgWidth = s.cfgWidth := rfl
@[simp] theorem State.beginDecode_cfgHeight : (s.beginDecode).cfgHeight = s.cfgHeight := rfl
@[simp] theorem State.beginDecode_cfgPalSize : (s.beginDecode).cfgPalSize = s.cfgPalSize := rfl
@[simp] theorem State.beginDecode_frameSize : (s.beginDecode).frameSize = s.frameSize := rfl
@[simp] theorem State.beginDecode_actWidth : (s.beginDecode).actWidth = s.actWidth := rfl
@[simp] theorem State.beginDecode_actHeight : (s.beginDecode).actHeight = s.actHeight := rfl
@[simp] theorem State.beginDecode_actPalSize : (s.beginDecode).actPalSize = s.actPalSize := rfl
@[simp] theorem State.beginDecode_scale : (s.beginDecode).scale = s.scale := rfl
@[simp] theorem State.beginDecode_xoff : (s.beginDecode).xoff = s.xoff := rfl
@[simp] theorem State.beginDecode_yoff : (s.beginDecode).yoff = s.yoff := rfl
@[simp] theorem State.beginDecode_px : (s.beginDecode).px = 0 := rfl
@[simp] theorem State.beginDecode_py : (s.beginDecode).py = 0 := rfl
@[simp] theorem State.beginDecode_rp : (s.beginDecode).rp = 0 := rfl
@[simp] theorem State.beginDecode_rem : (s.beginDecode).rem = 0 := rfl
@[simp] theorem State.beginDecode_cidx : (s.beginDecode).cidx = 0 := rfl
@[simp] theorem State.beginDecode_pal : (s.beginDecode).pal = s.pal := rfl
@[simp] theorem State.beginDecode_buf : (s.beginDecode).buf = s.buf := rfl
@[simp] theorem State.beginDecode_fb : (s.beginDecode).fb = s.fb := rfl
@[simp] theorem State.beginDecode_faults : (s.beginDecode).faults = s.faults := rfl
@[simp] theorem State.beginDecode_pending : (s.beginDecode).pending = s.pending := rfl
@[simp] theorem State.beginDecode_reply : (s.beginDecode).reply = s.reply := rfl

/-! ### advance -/

@[simp] theorem State.advance_fbW (n : Nat) : (s.advance n).fbW = s.fbW := rfl
@[simp] theorem State.advance_fbH (n : Nat) : (s.advance n).fbH = s.fbH := rfl
@[simp] theorem State.advance_paletteMax (n : Nat) : (s.advance n).paletteMax = s.paletteMax := rfl
@[simp] theorem State.advance_bufferMax (n : Nat) : (s.advance n).bufferMax = s.bufferMax := rfl
@[simp] theorem State.advance_busy (n : Nat) : (s.advance n).busy = s.busy := rfl
@[simp] theorem State.advance_done (n : Nat) : (s.advance n).done = s.done := rfl
@[simp] theorem State.advance_cfgValid (n : Nat) : (s.advance n).cfgValid = s.cfgValid := rfl
@[simp] theorem State.advance_wbusy (n : Nat) : (s.advance n).wbusy = s.wbusy := rfl
@[simp] theorem State.advance_result (n : Nat) : (s.advance n).result = s.result := rfl
@[simp] theorem State.advance_cfgErr (n : Nat) : (s.advance n).cfgErr = s.cfgErr := rfl
@[simp] theorem State.advance_fsErr (n : Nat) : (s.advance n).fsErr = s.fsErr := rfl
@[simp] theorem State.advance_cfgWidth (n : Nat) : (s.advance n).cfgWidth = s.cfgWidth := rfl
@[simp] theorem State.advance_cfgHeight (n : Nat) : (s.advance n).cfgHeight = s.cfgHeight := rfl
@[simp] theorem State.advance_cfgPalSize (n : Nat) : (s.advance n).cfgPalSize = s.cfgPalSize := rfl
@[simp] theorem State.advance_frameSize (n : Nat) : (s.advance n).frameSize = s.frameSize := rfl
@[simp] theorem State.advance_actWidth (n : Nat) : (s.advance n).actWidth = s.actWidth := rfl
@[simp] theorem State.advance_actHeight (n : Nat) : (s.advance n).actHeight = s.actHeight := rfl
@[simp] theorem State.advance_actPalSize (n : Nat) : (s.advance n).actPalSize = s.actPalSize := rfl
@[simp] theorem State.advance_scale (n : Nat) : (s.advance n).scale = s.scale := rfl
@[simp] theorem State.advance_xoff (n : Nat) : (s.advance n).xoff = s.xoff := rfl
@[simp] theorem State.advance_yoff (n : Nat) : (s.advance n).yoff = s.yoff := rfl
@[simp] theorem State.advance_px (n : Nat) : (s.advance n).px = BitVec.ofNat 16 ((s.linear + n) % s.actWidth.toNat) := rfl
@[simp] theorem State.advance_py (n : Nat) : (s.advance n).py = BitVec.ofNat 32 ((s.linear + n) / s.actWidth.toNat) := rfl
@[simp] theorem State.advance_rp (n : Nat) : (s.advance n).rp = s.rp := rfl
@[simp] theorem State.advance_rem (n : Nat) : (s.advance n).rem = s.rem := rfl
@[simp] theorem State.advance_cidx (n : Nat) : (s.advance n).cidx = s.cidx := rfl
@[simp] theorem State.advance_pal (n : Nat) : (s.advance n).pal = s.pal := rfl
@[simp] theorem State.advance_buf (n : Nat) : (s.advance n).buf = s.buf := rfl
@[simp] theorem State.advance_fb (n : Nat) : (s.advance n).fb = s.fb := rfl
@[simp] theorem State.advance_faults (n : Nat) : (s.advance n).faults = s.faults := rfl
@[simp] theorem State.advance_pending (n : Nat) : (s.advance n).pending = s.pending := rfl
@[simp] theorem State.advance_reply (n : Nat) : (s.advance n).reply = s.reply := rfl

/-! ### finish -/

@[simp] theorem State.finish_fbW (r : Result) : (s.finish r).fbW = s.fbW := rfl
@[simp] theorem State.finish_fbH (r : Result) : (s.finish r).fbH = s.fbH := rfl
@[simp] theorem State.finish_paletteMax (r : Result) : (s.finish r).paletteMax = s.paletteMax := rfl
@[simp] theorem State.finish_bufferMax (r : Result) : (s.finish r).bufferMax = s.bufferMax := rfl
@[simp] theorem State.finish_busy (r : Result) : (s.finish r).busy = false := rfl
@[simp] theorem State.finish_done (r : Result) : (s.finish r).done = true := rfl
@[simp] theorem State.finish_cfgValid (r : Result) : (s.finish r).cfgValid = s.cfgValid := rfl
@[simp] theorem State.finish_wbusy (r : Result) : (s.finish r).wbusy = s.wbusy := rfl
@[simp] theorem State.finish_result (r : Result) : (s.finish r).result = r := rfl
@[simp] theorem State.finish_cfgErr (r : Result) : (s.finish r).cfgErr = s.cfgErr := rfl
@[simp] theorem State.finish_fsErr (r : Result) : (s.finish r).fsErr = s.fsErr := rfl
@[simp] theorem State.finish_cfgWidth (r : Result) : (s.finish r).cfgWidth = s.cfgWidth := rfl
@[simp] theorem State.finish_cfgHeight (r : Result) : (s.finish r).cfgHeight = s.cfgHeight := rfl
@[simp] theorem State.finish_cfgPalSize (r : Result) : (s.finish r).cfgPalSize = s.cfgPalSize := rfl
@[simp] theorem State.finish_frameSize (r : Result) : (s.finish r).frameSize = s.frameSize := rfl
@[simp] theorem State.finish_actWidth (r : Result) : (s.finish r).actWidth = s.actWidth := rfl
@[simp] theorem State.finish_actHeight (r : Result) : (s.finish r).actHeight = s.actHeight := rfl
@[simp] theorem State.finish_actPalSize (r : Result) : (s.finish r).actPalSize = s.actPalSize := rfl
@[simp] theorem State.finish_scale (r : Result) : (s.finish r).scale = s.scale := rfl
@[simp] theorem State.finish_xoff (r : Result) : (s.finish r).xoff = s.xoff := rfl
@[simp] theorem State.finish_yoff (r : Result) : (s.finish r).yoff = s.yoff := rfl
@[simp] theorem State.finish_px (r : Result) : (s.finish r).px = s.px := rfl
@[simp] theorem State.finish_py (r : Result) : (s.finish r).py = s.py := rfl
@[simp] theorem State.finish_rp (r : Result) : (s.finish r).rp = s.rp := rfl
@[simp] theorem State.finish_rem (r : Result) : (s.finish r).rem = 0 := rfl
@[simp] theorem State.finish_cidx (r : Result) : (s.finish r).cidx = s.cidx := rfl
@[simp] theorem State.finish_pal (r : Result) : (s.finish r).pal = s.pal := rfl
@[simp] theorem State.finish_buf (r : Result) : (s.finish r).buf = s.buf := rfl
@[simp] theorem State.finish_fb (r : Result) : (s.finish r).fb = s.fb := rfl
@[simp] theorem State.finish_faults (r : Result) : (s.finish r).faults = s.faults := rfl
@[simp] theorem State.finish_pending (r : Result) : (s.finish r).pending = s.pending := rfl
@[simp] theorem State.finish_reply (r : Result) : (s.finish r).reply = s.reply := rfl

/-! ### loadRun -/

@[simp] theorem State.loadRun_fbW (c i : Byte) : (s.loadRun c i).fbW = s.fbW := rfl
@[simp] theorem State.loadRun_fbH (c i : Byte) : (s.loadRun c i).fbH = s.fbH := rfl
@[simp] theorem State.loadRun_paletteMax (c i : Byte) : (s.loadRun c i).paletteMax = s.paletteMax := rfl
@[simp] theorem State.loadRun_bufferMax (c i : Byte) : (s.loadRun c i).bufferMax = s.bufferMax := rfl
@[simp] theorem State.loadRun_busy (c i : Byte) : (s.loadRun c i).busy = s.busy := rfl
@[simp] theorem State.loadRun_done (c i : Byte) : (s.loadRun c i).done = s.done := rfl
@[simp] theorem State.loadRun_cfgValid (c i : Byte) : (s.loadRun c i).cfgValid = s.cfgValid := rfl
@[simp] theorem State.loadRun_wbusy (c i : Byte) : (s.loadRun c i).wbusy = s.wbusy := rfl
@[simp] theorem State.loadRun_result (c i : Byte) : (s.loadRun c i).result = s.result := rfl
@[simp] theorem State.loadRun_cfgErr (c i : Byte) : (s.loadRun c i).cfgErr = s.cfgErr := rfl
@[simp] theorem State.loadRun_fsErr (c i : Byte) : (s.loadRun c i).fsErr = s.fsErr := rfl
@[simp] theorem State.loadRun_cfgWidth (c i : Byte) : (s.loadRun c i).cfgWidth = s.cfgWidth := rfl
@[simp] theorem State.loadRun_cfgHeight (c i : Byte) : (s.loadRun c i).cfgHeight = s.cfgHeight := rfl
@[simp] theorem State.loadRun_cfgPalSize (c i : Byte) : (s.loadRun c i).cfgPalSize = s.cfgPalSize := rfl
@[simp] theorem State.loadRun_frameSize (c i : Byte) : (s.loadRun c i).frameSize = s.frameSize := rfl
@[simp] theorem State.loadRun_actWidth (c i : Byte) : (s.loadRun c i).actWidth = s.actWidth := rfl
@[simp] theorem State.loadRun_actHeight (c i : Byte) : (s.loadRun c i).actHeight = s.actHeight := rfl
@[simp] theorem State.loadRun_actPalSize (c i : Byte) : (s.loadRun c i).actPalSize = s.actPalSize := rfl
@[simp] theorem State.loadRun_scale (c i : Byte) : (s.loadRun c i).scale = s.scale := rfl
@[simp] theorem State.loadRun_xoff (c i : Byte) : (s.loadRun c i).xoff = s.xoff := rfl
@[simp] theorem State.loadRun_yoff (c i : Byte) : (s.loadRun c i).yoff = s.yoff := rfl
@[simp] theorem State.loadRun_px (c i : Byte) : (s.loadRun c i).px = s.px := rfl
@[simp] theorem State.loadRun_py (c i : Byte) : (s.loadRun c i).py = s.py := rfl
@[simp] theorem State.loadRun_rp (c i : Byte) : (s.loadRun c i).rp = s.rp := rfl
@[simp] theorem State.loadRun_rem (c i : Byte) : (s.loadRun c i).rem = c := rfl
@[simp] theorem State.loadRun_cidx (c i : Byte) : (s.loadRun c i).cidx = if c = 0 then s.cidx else i := rfl
@[simp] theorem State.loadRun_pal (c i : Byte) : (s.loadRun c i).pal = s.pal := rfl
@[simp] theorem State.loadRun_buf (c i : Byte) : (s.loadRun c i).buf = s.buf := rfl
@[simp] theorem State.loadRun_fb (c i : Byte) : (s.loadRun c i).fb = s.fb := rfl
@[simp] theorem State.loadRun_faults (c i : Byte) : (s.loadRun c i).faults = s.faults := rfl
@[simp] theorem State.loadRun_pending (c i : Byte) : (s.loadRun c i).pending = s.pending := rfl
@[simp] theorem State.loadRun_reply (c i : Byte) : (s.loadRun c i).reply = s.reply := rfl

/-! ### passRun -/

@[simp] theorem State.passRun_fbW : (s.passRun).fbW = s.fbW := rfl
@[simp] theorem State.passRun_fbH : (s.passRun).fbH = s.fbH := rfl
@[simp] theorem State.passRun_paletteMax : (s.passRun).paletteMax = s.paletteMax := rfl
@[simp] theorem State.passRun_bufferMax : (s.passRun).bufferMax = s.bufferMax := rfl
@[simp] theorem State.passRun_busy : (s.passRun).busy = s.busy := rfl
@[simp] theorem State.passRun_done : (s.passRun).done = s.done := rfl
@[simp] theorem State.passRun_cfgValid : (s.passRun).cfgValid = s.cfgValid := rfl
@[simp] theorem State.passRun_wbusy : (s.passRun).wbusy = s.wbusy := rfl
@[simp] theorem State.passRun_result : (s.passRun).result = s.result := rfl
@[simp] theorem State.passRun_cfgErr : (s.passRun).cfgErr = s.cfgErr := rfl
@[simp] theorem State.passRun_fsErr : (s.passRun).fsErr = s.fsErr := rfl
@[simp] theorem State.passRun_cfgWidth : (s.passRun).cfgWidth = s.cfgWidth := rfl
@[simp] theorem State.passRun_cfgHeight : (s.passRun).cfgHeight = s.cfgHeight := rfl
@[simp] theorem State.passRun_cfgPalSize : (s.passRun).cfgPalSize = s.cfgPalSize := rfl
@[simp] theorem State.passRun_frameSize : (s.passRun).frameSize = s.frameSize := rfl
@[simp] theorem State.passRun_actWidth : (s.passRun).actWidth = s.actWidth := rfl
@[simp] theorem State.passRun_actHeight : (s.passRun).actHeight = s.actHeight := rfl
@[simp] theorem State.passRun_actPalSize : (s.passRun).actPalSize = s.actPalSize := rfl
@[simp] theorem State.passRun_scale : (s.passRun).scale = s.scale := rfl
@[simp] theorem State.passRun_xoff : (s.passRun).xoff = s.xoff := rfl
@[simp] theorem State.passRun_yoff : (s.passRun).yoff = s.yoff := rfl
@[simp] theorem State.passRun_px : (s.passRun).px = s.px := rfl
@[simp] theorem State.passRun_py : (s.passRun).py = s.py := rfl
@[simp] theorem State.passRun_rp : (s.passRun).rp = s.rp + 2 := rfl
@[simp] theorem State.passRun_rem : (s.passRun).rem = s.rem := rfl
@[simp] theorem State.passRun_cidx : (s.passRun).cidx = s.cidx := rfl
@[simp] theorem State.passRun_pal : (s.passRun).pal = s.pal := rfl
@[simp] theorem State.passRun_buf : (s.passRun).buf = s.buf := rfl
@[simp] theorem State.passRun_fb : (s.passRun).fb = s.fb := rfl
@[simp] theorem State.passRun_faults : (s.passRun).faults = s.faults := rfl
@[simp] theorem State.passRun_pending : (s.passRun).pending = s.pending := rfl
@[simp] theorem State.passRun_reply : (s.passRun).reply = s.reply := rfl

/-! ### countPixel -/

@[simp] theorem State.countPixel_fbW : (s.countPixel).fbW = s.fbW := rfl
@[simp] theorem State.countPixel_fbH : (s.countPixel).fbH = s.fbH := rfl
@[simp] theorem State.countPixel_paletteMax : (s.countPixel).paletteMax = s.paletteMax := rfl
@[simp] theorem State.countPixel_bufferMax : (s.countPixel).bufferMax = s.bufferMax := rfl
@[simp] theorem State.countPixel_busy : (s.countPixel).busy = s.busy := rfl
@[simp] theorem State.countPixel_done : (s.countPixel).done = s.done := rfl
@[simp] theorem State.countPixel_cfgValid : (s.countPixel).cfgValid = s.cfgValid := rfl
@[simp] theorem State.countPixel_wbusy : (s.countPixel).wbusy = s.wbusy := rfl
@[simp] theorem State.countPixel_result : (s.countPixel).result = s.result := rfl
@[simp] theorem State.countPixel_cfgErr : (s.countPixel).cfgErr = s.cfgErr := rfl
@[simp] theorem State.countPixel_fsErr : (s.countPixel).fsErr = s.fsErr := rfl
@[simp] theorem State.countPixel_cfgWidth : (s.countPixel).cfgWidth = s.cfgWidth := rfl
@[simp] theorem State.countPixel_cfgHeight : (s.countPixel).cfgHeight = s.cfgHeight := rfl
@[simp] theorem State.countPixel_cfgPalSize : (s.countPixel).cfgPalSize = s.cfgPalSize := rfl
@[simp] theorem State.countPixel_frameSize : (s.countPixel).frameSize = s.frameSize := rfl
@[simp] theorem State.countPixel_actWidth : (s.countPixel).actWidth = s.actWidth := rfl
@[simp] theorem State.countPixel_actHeight : (s.countPixel).actHeight = s.actHeight := rfl
@[simp] theorem State.countPixel_actPalSize : (s.countPixel).actPalSize = s.actPalSize := rfl
@[simp] theorem State.countPixel_scale : (s.countPixel).scale = s.scale := rfl
@[simp] theorem State.countPixel_xoff : (s.countPixel).xoff = s.xoff := rfl
@[simp] theorem State.countPixel_yoff : (s.countPixel).yoff = s.yoff := rfl
@[simp] theorem State.countPixel_px : (s.countPixel).px = s.px := rfl
@[simp] theorem State.countPixel_py : (s.countPixel).py = s.py := rfl
@[simp] theorem State.countPixel_rp : (s.countPixel).rp = s.rp := rfl
@[simp] theorem State.countPixel_rem : (s.countPixel).rem = s.rem - 1 := rfl
@[simp] theorem State.countPixel_cidx : (s.countPixel).cidx = s.cidx := rfl
@[simp] theorem State.countPixel_pal : (s.countPixel).pal = s.pal := rfl
@[simp] theorem State.countPixel_buf : (s.countPixel).buf = s.buf := rfl
@[simp] theorem State.countPixel_fb : (s.countPixel).fb = s.fb := rfl
@[simp] theorem State.countPixel_faults : (s.countPixel).faults = s.faults := rfl
@[simp] theorem State.countPixel_pending : (s.countPixel).pending = s.pending := rfl
@[simp] theorem State.countPixel_reply : (s.countPixel).reply = s.reply := rfl

/-! ### blit -/

@[simp] theorem State.blit_fbW (x y : Nat) (c : Half) : (s.blit x y c).fbW = s.fbW := rfl
@[simp] theorem State.blit_fbH (x y : Nat) (c : Half) : (s.blit x y c).fbH = s.fbH := rfl
@[simp] theorem State.blit_paletteMax (x y : Nat) (c : Half) : (s.blit x y c).paletteMax = s.paletteMax := rfl
@[simp] theorem State.blit_bufferMax (x y : Nat) (c : Half) : (s.blit x y c).bufferMax = s.bufferMax := rfl
@[simp] theorem State.blit_busy (x y : Nat) (c : Half) : (s.blit x y c).busy = s.busy := rfl
@[simp] theorem State.blit_done (x y : Nat) (c : Half) : (s.blit x y c).done = s.done := rfl
@[simp] theorem State.blit_cfgValid (x y : Nat) (c : Half) : (s.blit x y c).cfgValid = s.cfgValid := rfl
@[simp] theorem State.blit_wbusy (x y : Nat) (c : Half) : (s.blit x y c).wbusy = s.wbusy := rfl
@[simp] theorem State.blit_result (x y : Nat) (c : Half) : (s.blit x y c).result = s.result := rfl
@[simp] theorem State.blit_cfgErr (x y : Nat) (c : Half) : (s.blit x y c).cfgErr = s.cfgErr := rfl
@[simp] theorem State.blit_fsErr (x y : Nat) (c : Half) : (s.blit x y c).fsErr = s.fsErr := rfl
@[simp] theorem State.blit_cfgWidth (x y : Nat) (c : Half) : (s.blit x y c).cfgWidth = s.cfgWidth := rfl
@[simp] theorem State.blit_cfgHeight (x y : Nat) (c : Half) : (s.blit x y c).cfgHeight = s.cfgHeight := rfl
@[simp] theorem State.blit_cfgPalSize (x y : Nat) (c : Half) : (s.blit x y c).cfgPalSize = s.cfgPalSize := rfl
@[simp] theorem State.blit_frameSize (x y : Nat) (c : Half) : (s.blit x y c).frameSize = s.frameSize := rfl
@[simp] theorem State.blit_actWidth (x y : Nat) (c : Half) : (s.blit x y c).actWidth = s.actWidth := rfl
@[simp] theorem State.blit_actHeight (x y : Nat) (c : Half) : (s.blit x y c).actHeight = s.actHeight := rfl
@[simp] theorem State.blit_actPalSize (x y : Nat) (c : Half) : (s.blit x y c).actPalSize = s.actPalSize := rfl
@[simp] theorem State.blit_scale (x y : Nat) (c : Half) : (s.blit x y c).scale = s.scale := rfl
@[simp] theorem State.blit_xoff (x y : Nat) (c : Half) : (s.blit x y c).xoff = s.xoff := rfl
@[simp] theorem State.blit_yoff (x y : Nat) (c : Half) : (s.blit x y c).yoff = s.yoff := rfl
@[simp] theorem State.blit_px (x y : Nat) (c : Half) : (s.blit x y c).px = s.px := rfl
@[simp] theorem State.blit_py (x y : Nat) (c : Half) : (s.blit x y c).py = s.py := rfl
@[simp] theorem State.blit_rp (x y : Nat) (c : Half) : (s.blit x y c).rp = s.rp := rfl
@[simp] theorem State.blit_rem (x y : Nat) (c : Half) : (s.blit x y c).rem = s.rem := rfl
@[simp] theorem State.blit_cidx (x y : Nat) (c : Half) : (s.blit x y c).cidx = s.cidx := rfl
@[simp] theorem State.blit_pal (x y : Nat) (c : Half) : (s.blit x y c).pal = s.pal := rfl
@[simp] theorem State.blit_buf (x y : Nat) (c : Half) : (s.blit x y c).buf = s.buf := rfl
@[simp] theorem State.blit_fb (x y : Nat) (c : Half) : (s.blit x y c).fb = paintBlock s.fbW s.fb (blockX s x) (blockY s y) s.scale.toNat c := rfl
@[simp] theorem State.blit_faults (x y : Nat) (c : Half) : (s.blit x y c).faults = s.faults := rfl
@[simp] theorem State.blit_pending (x y : Nat) (c : Half) : (s.blit x y c).pending = s.pending := rfl
@[simp] theorem State.blit_reply (x y : Nat) (c : Half) : (s.blit x y c).reply = s.reply := rfl

/-! ### record -/

@[simp] theorem State.record_fbW (f : Fault) : (s.record f).fbW = s.fbW := rfl
@[simp] theorem State.record_fbH (f : Fault) : (s.record f).fbH = s.fbH := rfl
@[simp] theorem State.record_paletteMax (f : Fault) : (s.record f).paletteMax = s.paletteMax := rfl
@[simp] theorem State.record_bufferMax (f : Fault) : (s.record f).bufferMax = s.bufferMax := rfl
@[simp] theorem State.record_busy (f : Fault) : (s.record f).busy = s.busy := rfl
@[simp] theorem State.record_done (f : Fault) : (s.record f).done = s.done := rfl
@[simp] theorem State.record_cfgValid (f : Fault) : (s.record f).cfgValid = s.cfgValid := rfl
@[simp] theorem State.record_wbusy (f : Fault) : (s.record f).wbusy = s.wbusy := rfl
@[simp] theorem State.record_result (f : Fault) : (s.record f).result = s.result := rfl
@[simp] theorem State.record_cfgErr (f : Fault) : (s.record f).cfgErr = s.cfgErr := rfl
@[simp] theorem State.record_fsErr (f : Fault) : (s.record f).fsErr = s.fsErr := rfl
@[simp] theorem State.record_cfgWidth (f : Fault) : (s.record f).cfgWidth = s.cfgWidth := rfl
@[simp] theorem State.record_cfgHeight (f : Fault) : (s.record f).cfgHeight = s.cfgHeight := rfl
@[simp] theorem State.record_cfgPalSize (f : Fault) : (s.record f).cfgPalSize = s.cfgPalSize := rfl
@[simp] theorem State.record_frameSize (f : Fault) : (s.record f).frameSize = s.frameSize := rfl
@[simp] theorem State.record_actWidth (f : Fault) : (s.record f).actWidth = s.actWidth := rfl
@[simp] theorem State.record_actHeight (f : Fault) : (s.record f).actHeight = s.actHeight := rfl
@[simp] theorem State.record_actPalSize (f : Fault) : (s.record f).actPalSize = s.actPalSize := rfl
@[simp] theorem State.record_scale (f : Fault) : (s.record f).scale = s.scale := rfl
@[simp] theorem State.record_xoff (f : Fault) : (s.record f).xoff = s.xoff := rfl
@[simp] theorem State.record_yoff (f : Fault) : (s.record f).yoff = s.yoff := rfl
@[simp] theorem State.record_px (f : Fault) : (s.record f).px = s.px := rfl
@[simp] theorem State.record_py (f : Fault) : (s.record f).py = s.py := rfl
@[simp] theorem State.record_rp (f : Fault) : (s.record f).rp = s.rp := rfl
@[simp] theorem State.record_rem (f : Fault) : (s.record f).rem = s.rem := rfl
@[simp] theorem State.record_cidx (f : Fault) : (s.record f).cidx = s.cidx := rfl
@[simp] theorem State.record_pal (f : Fault) : (s.record f).pal = s.pal := rfl
@[simp] theorem State.record_buf (f : Fault) : (s.record f).buf = s.buf := rfl
@[simp] theorem State.record_fb (f : Fault) : (s.record f).fb = s.fb := rfl
@[simp] theorem State.record_faults (f : Fault) : (s.record f).faults = if f ∈ s.faults then s.faults else f :: s.faults := rfl
@[simp] theorem State.record_pending (f : Fault) : (s.record f).pending = s.pending := rfl
@[simp] theorem State.record_reply (f : Fault) : (s.record f).reply = s.reply := rfl

/-! ### passMove -/

@[simp] theorem State.passMove_fbW : (s.passMove).fbW = s.fbW := rfl
@[simp] theorem State.passMove_fbH : (s.passMove).fbH = s.fbH := rfl
@[simp] theorem State.passMove_paletteMax : (s.passMove).paletteMax = s.paletteMax := rfl
@[simp] theorem State.passMove_bufferMax : (s.passMove).bufferMax = s.bufferMax := rfl
@[simp] theorem State.passMove_busy : (s.passMove).busy = s.busy := rfl
@[simp] theorem State.passMove_done : (s.passMove).done = s.done := rfl
@[simp] theorem State.passMove_cfgValid : (s.passMove).cfgValid = s.cfgValid := rfl
@[simp] theorem State.passMove_wbusy : (s.passMove).wbusy = s.wbusy := rfl
@[simp] theorem State.passMove_result : (s.passMove).result = s.result := rfl
@[simp] theorem State.passMove_cfgErr : (s.passMove).cfgErr = s.cfgErr := rfl
@[simp] theorem State.passMove_fsErr : (s.passMove).fsErr = s.fsErr := rfl
@[simp] theorem State.passMove_cfgWidth : (s.passMove).cfgWidth = s.cfgWidth := rfl
@[simp] theorem State.passMove_cfgHeight : (s.passMove).cfgHeight = s.cfgHeight := rfl
@[simp] theorem State.passMove_cfgPalSize : (s.passMove).cfgPalSize = s.cfgPalSize := rfl
@[simp] theorem State.passMove_frameSize : (s.passMove).frameSize = s.frameSize := rfl
@[simp] theorem State.passMove_actWidth : (s.passMove).actWidth = s.actWidth := rfl
@[simp] theorem State.passMove_actHeight : (s.passMove).actHeight = s.actHeight := rfl
@[simp] theorem State.passMove_actPalSize : (s.passMove).actPalSize = s.actPalSize := rfl
@[simp] theorem State.passMove_scale : (s.passMove).scale = s.scale := rfl
@[simp] theorem State.passMove_xoff : (s.passMove).xoff = s.xoff := rfl
@[simp] theorem State.passMove_yoff : (s.passMove).yoff = s.yoff := rfl
@[simp] theorem State.passMove_px : (s.passMove).px = s.px := rfl
@[simp] theorem State.passMove_py : (s.passMove).py = s.py := rfl
@[simp] theorem State.passMove_rp : (s.passMove).rp = s.rp := rfl
@[simp] theorem State.passMove_rem : (s.passMove).rem = s.rem := rfl
@[simp] theorem State.passMove_cidx : (s.passMove).cidx = s.cidx := rfl
@[simp] theorem State.passMove_pal : (s.passMove).pal = s.pal := rfl
@[simp] theorem State.passMove_buf : (s.passMove).buf = s.buf := rfl
@[simp] theorem State.passMove_fb : (s.passMove).fb = s.fb := rfl
@[simp] theorem State.passMove_faults : (s.passMove).faults = s.faults := rfl
@[simp] theorem State.passMove_pending : (s.passMove).pending = s.pending.tail := rfl
@[simp] theorem State.passMove_reply : (s.passMove).reply = s.reply := rfl

/-! ### resetBy -/

@[simp] theorem State.resetBy_fbW : s.resetBy.fbW = s.fbW := rfl
@[simp] theorem State.resetBy_fbH : s.resetBy.fbH = s.fbH := rfl
@[simp] theorem State.resetBy_paletteMax : s.resetBy.paletteMax = s.paletteMax := rfl
@[simp] theorem State.resetBy_bufferMax : s.resetBy.bufferMax = s.bufferMax := rfl
@[simp] theorem State.resetBy_busy : s.resetBy.busy = false := rfl
@[simp] theorem State.resetBy_done : s.resetBy.done = false := rfl
@[simp] theorem State.resetBy_cfgValid : s.resetBy.cfgValid = false := rfl
@[simp] theorem State.resetBy_wbusy : s.resetBy.wbusy = false := rfl
@[simp] theorem State.resetBy_result : s.resetBy.result = .none := rfl
@[simp] theorem State.resetBy_cfgErr : s.resetBy.cfgErr = .none := rfl
@[simp] theorem State.resetBy_fsErr : s.resetBy.fsErr = .none := rfl
@[simp] theorem State.resetBy_cfgWidth : s.resetBy.cfgWidth = 0 := rfl
@[simp] theorem State.resetBy_cfgHeight : s.resetBy.cfgHeight = 0 := rfl
@[simp] theorem State.resetBy_cfgPalSize : s.resetBy.cfgPalSize = 0 := rfl
@[simp] theorem State.resetBy_frameSize : s.resetBy.frameSize = 0 := rfl
@[simp] theorem State.resetBy_actWidth : s.resetBy.actWidth = 0 := rfl
@[simp] theorem State.resetBy_actHeight : s.resetBy.actHeight = 0 := rfl
@[simp] theorem State.resetBy_actPalSize : s.resetBy.actPalSize = 0 := rfl
@[simp] theorem State.resetBy_scale : s.resetBy.scale = 0 := rfl
@[simp] theorem State.resetBy_xoff : s.resetBy.xoff = 0 := rfl
@[simp] theorem State.resetBy_yoff : s.resetBy.yoff = 0 := rfl
@[simp] theorem State.resetBy_px : s.resetBy.px = 0 := rfl
@[simp] theorem State.resetBy_py : s.resetBy.py = 0 := rfl
@[simp] theorem State.resetBy_rp : s.resetBy.rp = 0 := rfl
@[simp] theorem State.resetBy_rem : s.resetBy.rem = 0 := rfl
@[simp] theorem State.resetBy_cidx : s.resetBy.cidx = 0 := rfl
@[simp] theorem State.resetBy_pal : s.resetBy.pal = [] := rfl
@[simp] theorem State.resetBy_buf : s.resetBy.buf = [] := rfl
@[simp] theorem State.resetBy_fb : s.resetBy.fb = s.fb := rfl
@[simp] theorem State.resetBy_faults : s.resetBy.faults = s.faults := rfl
@[simp] theorem State.resetBy_pending : s.resetBy.pending = s.pending := rfl
@[simp] theorem State.resetBy_reply : s.resetBy.reply = s.reply := rfl

/-! ### The busy-write rule -/

theorem State.hostWrite_busy (effect : State → State) (h : s.busy = true) : s.hostWrite effect = s.dropWrite := by
  simp [State.hostWrite, h]

theorem State.hostWrite_idle (effect : State → State) (h : s.busy = false) : s.hostWrite effect = effect s := by
  simp [State.hostWrite, h]

/-! ### The cursor's linear position sees only PX, PY and ACT_WIDTH -/

theorem State.linear_congr {s t : State} (hx : t.px = s.px) (hy : t.py = s.py) (hw : t.actWidth = s.actWidth) :
    t.linear = s.linear := by
  simp [State.linear, hx, hy, hw]

@[simp] theorem State.linear_blit (x y : Nat) (c : Half) : (s.blit x y c).linear = s.linear := rfl
@[simp] theorem State.linear_passRun : s.passRun.linear = s.linear := rfl
@[simp] theorem State.linear_countPixel : s.countPixel.linear = s.linear := rfl
@[simp] theorem State.linear_loadRun (c i : Byte) : (s.loadRun c i).linear = s.linear := rfl
@[simp] theorem State.linear_dropWrite : s.dropWrite.linear = s.linear := rfl
@[simp] theorem State.linear_answer (r : Reply) : (s.answer r).linear = s.linear := rfl

end Sys2Proof.Machine
end

