-- ==== Sys2Proof/Laws/Commands.lean ====
section
/-! SUPPORT. What the checks of COMMIT and START accept, what their geometry is bounded by, and what the two commands can
do. -/

namespace Sys2Proof.Machine

/-- COMMIT finds no violation exactly when the three fields are in range (R98). -/
theorem cfgErrOf_eq_none {fbW fbH palMax w h p : Nat} :
    cfgErrOf fbW fbH palMax w h p = .none ↔
      (1 ≤ w ∧ w ≤ fbW) ∧ (1 ≤ h ∧ h ≤ fbH) ∧ (1 ≤ p ∧ p ≤ palMax) := by
  unfold cfgErrOf
  split_ifs <;> simp_all

/-- START finds no violation exactly when the frame size is positive, even and fits the buffer (R99). -/
theorem fsErrOf_eq_none {bufMax size : Nat} :
    fsErrOf bufMax size = .none ↔ 0 < size ∧ size % 2 = 0 ∧ size ≤ bufMax := by
  unfold fsErrOf
  split_ifs <;> simp <;> omega

/-- A scaled width fits the frame's width, as a scaled height fits its height (R116). -/
theorem geoScale_mul_width {fbW w : Nat} (fbH h : Nat) (hw : 1 ≤ w) (hw' : w ≤ fbW) :
    w * geoScale fbW fbH w h ≤ fbW := by
  have h1 : 1 ≤ fbW / w := Nat.div_pos hw' hw
  have h2 : geoScale fbW fbH w h ≤ fbW / w := max_le h1 (min_le_left _ _)
  exact le_trans (Nat.mul_le_mul_left _ h2) (Nat.mul_div_le _ _)

theorem geoScale_mul_height {fbH h : Nat} (fbW w : Nat) (hh : 1 ≤ h) (hh' : h ≤ fbH) :
    h * geoScale fbW fbH w h ≤ fbH := by
  have h1 : 1 ≤ fbH / h := Nat.div_pos hh' hh
  have h2 : geoScale fbW fbH w h ≤ fbH / h := max_le h1 (min_le_right _ _)
  exact le_trans (Nat.mul_le_mul_left _ h2) (Nat.mul_div_le _ _)

theorem geoScale_pos (fbW fbH w h : Nat) : 1 ≤ geoScale fbW fbH w h :=
  le_max_left _ _

theorem geoXoff_le (fbW w s : Nat) : geoXoff fbW w s ≤ fbW :=
  le_trans (Nat.div_le_self _ _) (Nat.sub_le _ _)

theorem geoYoff_le (fbH h s : Nat) : geoYoff fbH h s ≤ fbH :=
  le_trans (Nat.div_le_self _ _) (Nat.sub_le _ _)

/-- The offset and the scaled image fit the frame together (R117, R120 (e)). -/
theorem geoXoff_add {fbW w s : Nat} (h : w * s ≤ fbW) : geoXoff fbW w s + w * s ≤ fbW := by
  unfold geoXoff
  omega

theorem geoYoff_add {fbH h s : Nat} (hle : h * s ≤ fbH) : geoYoff fbH h s + h * s ≤ fbH := by
  unfold geoYoff
  omega

/-- A geometry value that fits a side of the frame is stored whole in its 16 bits. -/
theorem stored_whole {side n : Nat} (hs : Config.FrameSideOk side) (h : n ≤ side) : (BitVec.ofNat 16 n).toNat = n := by
  rw [BitVec.toNat_ofNat]
  exact Nat.mod_eq_of_lt (by omega)

/-- What COMMIT can do on an idle VPDEC: latch, or reject with the first violation (R98). -/
theorem State.commit_cases (s : State) :
    (s.candidateErr = .none ∧
      s.commit = s.latchConfig s.cfgWidth s.cfgHeight s.cfgPalSize s.candidateScale) ∨
    (∃ e, s.candidateErr = e ∧ e ≠ .none ∧ s.commit = s.rejectConfig e) := by
  unfold State.commit
  cases h : s.candidateErr <;> simp

/-- What START can do on an idle VPDEC: begin, or refuse with NOCFG or CORRUPT (R99). -/
theorem State.start_cases (s : State) :
    (s.cfgValid = true ∧ fsErrOf s.bufferMax s.frameSize.toNat = .none ∧ s.start = s.beginDecode) ∨
    (s.cfgValid = false ∧ s.start = s.refuseStart .noCfg .none) ∨
    (s.cfgValid = true ∧ ∃ e, fsErrOf s.bufferMax s.frameSize.toNat = e ∧ e ≠ .none ∧ s.start = s.refuseStart .corrupt e) := by
  unfold State.start
  cases hc : s.cfgValid
  · simp
  · cases h : fsErrOf s.bufferMax s.frameSize.toNat <;> simp

end Sys2Proof.Machine
end

