-- ==== Sys2Proof/Laws/Memory.lean ====
section
/-! SUPPORT. What the operations over stores do, said once: a read after a write, the canonical form, the bound on the
indexes, and what a block fill leaves in every framebuffer pixel. -/

namespace Sys2Proof.Machine

variable {width : Nat}

@[simp] theorem Memory.read_nil (a : Nat) : Memory.read ([] : Memory width) a = none := rfl

theorem Memory.read_cons (b : Nat) (v : BitVec width) (m : Memory width) (a : Nat) :
    Memory.read ((b, v) :: m) a = if a = b then some v else Memory.read m a := rfl

/-- An index below every listed one reads as no value. -/
theorem Memory.read_of_lt (m : Memory width) (a : Nat) (h : ∀ p ∈ m, a < p.1) : Memory.read m a = none := by
  induction m with
  | nil => rfl
  | cons p m ih =>
    have hp := h p (by simp)
    rw [Memory.read_cons, if_neg (by omega), ih fun q hq => h q (by simp [hq])]

/-- Every index of an overlaid store comes from one of the two. -/
theorem Memory.overlayCell_index (a : Nat) (v : BitVec width) (rest : Memory width → Memory width)
    (P : Nat → Prop) (ha : P a) (hrest : ∀ m : Memory width, (∀ p ∈ m, P p.1) → ∀ p ∈ rest m, P p.1)
    (old : Memory width) (hold : ∀ p ∈ old, P p.1) : ∀ p ∈ Memory.overlayCell a v rest old, P p.1 := by
  induction old with
  | nil =>
    intro p hp
    rcases List.mem_cons.mp hp with rfl | hp
    · exact ha
    · exact hrest [] (by simp) p hp
  | cons q old ih =>
    obtain ⟨b, w⟩ := q
    have hb : P b := hold (b, w) (by simp)
    have hold' : ∀ p ∈ old, P p.1 := fun p hp => hold p (by simp [hp])
    intro p hp
    unfold Memory.overlayCell at hp
    split at hp
    · rcases List.mem_cons.mp hp with rfl | hp
      · exact hb
      · exact ih hold' p hp
    · split at hp
      · rcases List.mem_cons.mp hp with rfl | hp
        · exact ha
        · exact hrest old hold' p hp
      · rcases List.mem_cons.mp hp with rfl | hp
        · exact ha
        · exact hrest _ hold p hp

theorem Memory.overlay_index (new old : Memory width) (P : Nat → Prop) (hnew : ∀ p ∈ new, P p.1)
    (hold : ∀ p ∈ old, P p.1) : ∀ p ∈ Memory.overlay new old, P p.1 := by
  induction new generalizing old with
  | nil => exact hold
  | cons q new ih =>
    obtain ⟨a, v⟩ := q
    exact Memory.overlayCell_index a v _ P (hnew (a, v) (by simp))
      (fun m hm => ih m (fun p hp => hnew p (by simp [hp])) hm) old hold

/-- What an overlaid store holds, and that it keeps the canonical form. -/
theorem Memory.overlay_spec (new old : Memory width) (hnew : Memory.wf new) (hold : Memory.wf old) :
    Memory.wf (Memory.overlay new old) ∧
      ∀ a, Memory.read (Memory.overlay new old) a = (Memory.read new a).or (Memory.read old a) := by
  induction new generalizing old with
  | nil => exact ⟨hold, fun a => by simp [Memory.overlay]⟩
  | cons q new ih =>
    obtain ⟨a, v⟩ := q
    have hlt : ∀ p ∈ new, a < p.1 := (List.pairwise_cons.mp hnew).1
    have hnew' := (List.pairwise_cons.mp hnew).2
    have above : ∀ m : Memory width, (∀ p ∈ m, a < p.1) → ∀ p ∈ Memory.overlay new m, a < p.1 :=
      fun m hm => Memory.overlay_index new m (a < ·) hlt hm
    change Memory.wf (Memory.overlayCell a v (Memory.overlay new) old) ∧ ∀ x,
      Memory.read (Memory.overlayCell a v (Memory.overlay new) old) x = _
    induction old with
    | nil =>
      obtain ⟨h1, h2⟩ := ih [] hnew' hold
      refine ⟨List.pairwise_cons.mpr ⟨above [] (by simp), h1⟩, fun x => ?_⟩
      simp only [Memory.overlayCell, Memory.read_cons, h2]
      split <;> simp
    | cons r old ihold =>
      obtain ⟨b, w⟩ := r
      have hbm : ∀ p ∈ old, b < p.1 := (List.pairwise_cons.mp hold).1
      have hold' := (List.pairwise_cons.mp hold).2
      unfold Memory.overlayCell
      split
      · rename_i hba
        obtain ⟨h1, h2⟩ := ihold hold'
        refine ⟨List.pairwise_cons.mpr ⟨?_, h1⟩, fun x => ?_⟩
        · refine Memory.overlayCell_index a v _ (b < ·) hba (fun m hm => ?_) old hbm
          exact Memory.overlay_index new m (b < ·) (fun p hp => lt_trans hba (hlt p hp)) hm
        · simp only [Memory.read_cons, h2]
          by_cases hx : x = b
          · subst hx
            have hn : Memory.read new x = none :=
              Memory.read_of_lt _ _ fun p hp => lt_trans hba (hlt p hp)
            simp [hn, Nat.ne_of_lt hba]
          · simp [hx]
      · split
        · rename_i h1 h2
          subst h2
          obtain ⟨g1, g2⟩ := ih old hnew' hold'
          refine ⟨List.pairwise_cons.mpr ⟨above old hbm, g1⟩, fun x => ?_⟩
          simp only [Memory.read_cons, g2]
          split <;> simp
        · rename_i h1 h2
          have hab : a < b := by omega
          obtain ⟨g1, g2⟩ := ih ((b, w) :: old) hnew' hold
          refine ⟨List.pairwise_cons.mpr ⟨above _ ?_, g1⟩, fun x => ?_⟩
          · intro p hp
            rcases List.mem_cons.mp hp with rfl | hp
            · exact hab
            · exact lt_trans hab (hbm p hp)
          · simp only [Memory.read_cons, g2]
            split <;> simp

theorem Memory.wf_overlay {new old : Memory width} (hnew : Memory.wf new) (hold : Memory.wf old) :
    Memory.wf (Memory.overlay new old) :=
  (Memory.overlay_spec new old hnew hold).1

theorem Memory.read_overlay {new old : Memory width} (hnew : Memory.wf new) (hold : Memory.wf old) (a : Nat) :
    Memory.read (Memory.overlay new old) a = (Memory.read new a).or (Memory.read old a) :=
  (Memory.overlay_spec new old hnew hold).2 a

/-! ## One cell -/

theorem Memory.wf_write {m : Memory width} (h : Memory.wf m) (a : Nat) (v : BitVec width) :
    Memory.wf (Memory.write m a v) :=
  Memory.wf_overlay (List.pairwise_singleton _ _) h

theorem Memory.write_index {m : Memory width} {P : Nat → Prop} (h : ∀ p ∈ m, P p.1) (a : Nat) (v : BitVec width)
    (ha : P a) : ∀ p ∈ Memory.write m a v, P p.1 :=
  Memory.overlay_index _ _ P (by simpa using ha) h

theorem Memory.write_below {m : Memory width} {n : Nat} (h : ∀ p ∈ m, p.1 < n) {a : Nat} (v : BitVec width)
    (ha : a < n) : ∀ p ∈ Memory.write m a v, p.1 < n :=
  Memory.write_index (P := (· < n)) h a v ha

/-- A read after a write: the written value at its index, and what was there elsewhere. -/
theorem Memory.read_write {m : Memory width} (h : Memory.wf m) (a : Nat) (v : BitVec width) (x : Nat) :
    Memory.read (Memory.write m a v) x = if x = a then some v else Memory.read m x := by
  rw [Memory.write, Memory.read_overlay (List.pairwise_singleton _ _) h, Memory.read_cons]
  split <;> simp

/-- A read after a write needs no canonical form: the write stops at the first place that fits. -/
theorem Memory.read_write_same (m : Memory width) (a : Nat) (v : BitVec width) :
    Memory.read (Memory.write m a v) a = some v := by
  simp only [Memory.write, Memory.overlay]
  induction m with
  | nil => simp [Memory.overlayCell, Memory.read_cons]
  | cons p m ih =>
    obtain ⟨b, w⟩ := p
    unfold Memory.overlayCell
    split
    · rw [Memory.read_cons, if_neg (by omega), ih]
    · split <;> simp [Memory.read_cons]

theorem Memory.read_write_other (m : Memory width) {a x : Nat} (v : BitVec width) (hx : x ≠ a) :
    Memory.read (Memory.write m a v) x = Memory.read m x := by
  simp only [Memory.write, Memory.overlay]
  induction m with
  | nil => simp [Memory.overlayCell, Memory.read_cons, hx]
  | cons p m ih =>
    obtain ⟨b, w⟩ := p
    unfold Memory.overlayCell
    split
    · rw [Memory.read_cons, ih, Memory.read_cons]
    · split
      · rename_i h
        subst h
        simp [Memory.read_cons, hx]
      · simp [Memory.read_cons, hx]

/-! ## A block of pixels -/

theorem blockRow_wf (fbW x y n : Nat) (c : Half) : Memory.wf (blockRow fbW x y n c) := by
  refine List.pairwise_map.mpr (List.Pairwise.imp ?_ List.pairwise_lt_range)
  intro i j h
  simp only [pixelIndex]
  omega

theorem Memory.read_map_range (g : Nat → Nat) (n : Nat) (c : BitVec width) (a : Nat) :
    Memory.read ((List.range n).map fun i => (g i, c)) a = if ∃ i, i < n ∧ g i = a then some c else none := by
  have key : ∀ l : List Nat, Memory.read (l.map fun i => (g i, c)) a = if ∃ i ∈ l, g i = a then some c else none := by
    intro l
    induction l with
    | nil => simp
    | cons i l ih =>
      simp only [List.map_cons, Memory.read_cons, ih, List.mem_cons, exists_eq_or_imp]
      by_cases h : a = g i
      · simp [h]
      · have h' : ¬(g i = a) := fun e => h e.symm
        simp [h, h']
  simpa [List.mem_range] using key (List.range n)

theorem read_blockRow (fbW x y n : Nat) (c : Half) (a : Nat) :
    Memory.read (blockRow fbW x y n c) a = if ∃ dx, dx < n ∧ pixelIndex fbW (x + dx) y = a then some c else none :=
  Memory.read_map_range (fun dx => pixelIndex fbW (x + dx) y) n c a

theorem paintBlock_succ (fb : Memory 16) (fbW x y n k : Nat) (c : Half) :
    (List.range (k + 1)).foldl (fun m dy => Memory.overlay (blockRow fbW x (y + dy) n c) m) fb =
      Memory.overlay (blockRow fbW x (y + k) n c)
        ((List.range k).foldl (fun m dy => Memory.overlay (blockRow fbW x (y + dy) n c) m) fb) := by
  simp [List.range_succ]

theorem paintRows_spec (fb : Memory 16) (fbW x y n k : Nat) (c : Half) (h : Memory.wf fb) :
    let m := (List.range k).foldl (fun m dy => Memory.overlay (blockRow fbW x (y + dy) n c) m) fb
    Memory.wf m ∧ ∀ a, Memory.read m a =
      if ∃ dy, dy < k ∧ ∃ dx, dx < n ∧ pixelIndex fbW (x + dx) (y + dy) = a then some c else Memory.read fb a := by
  induction k with
  | zero => simpa using h
  | succ k ih =>
    obtain ⟨hw, hr⟩ := ih
    simp only [paintBlock_succ]
    refine ⟨Memory.wf_overlay (blockRow_wf ..) hw, fun a => ?_⟩
    rw [Memory.read_overlay (blockRow_wf ..) hw, hr, read_blockRow]
    by_cases h1 : ∃ dx, dx < n ∧ pixelIndex fbW (x + dx) (y + k) = a
    · have h2 : ∃ dy, dy < k + 1 ∧ ∃ dx, dx < n ∧ pixelIndex fbW (x + dx) (y + dy) = a := ⟨k, Nat.lt_succ_self k, h1⟩
      rw [if_pos h1, if_pos h2]
      rfl
    · rw [if_neg h1, Option.none_or]
      refine if_congr ⟨fun ⟨dy, hdy, hx⟩ => ⟨dy, by omega, hx⟩, fun ⟨dy, hdy, hx⟩ => ⟨dy, ?_, hx⟩⟩ rfl rfl
      rcases Nat.lt_succ_iff_lt_or_eq.mp hdy with h2 | rfl
      · exact h2
      · exact absurd hx h1

/-- The block fill keeps the canonical form. -/
theorem paintBlock_wf {fb : Memory 16} (h : Memory.wf fb) (fbW x y n : Nat) (c : Half) :
    Memory.wf (paintBlock fbW fb x y n c) :=
  (paintRows_spec fb fbW x y n n c h).1

/-- What the block fill leaves in every cell (R122): the colour in the block, what was there outside it. -/
theorem read_paintBlock {fb : Memory 16} (h : Memory.wf fb) (fbW x y n : Nat) (c : Half) (a : Nat) :
    Memory.read (paintBlock fbW fb x y n c) a =
      if ∃ dy, dy < n ∧ ∃ dx, dx < n ∧ pixelIndex fbW (x + dx) (y + dy) = a then some c else Memory.read fb a :=
  (paintRows_spec fb fbW x y n n c h).2 a

/-- The block fill adds only indexes of its own pixels. -/
theorem paintBlock_index {fb : Memory 16} {P : Nat → Prop} (h : ∀ p ∈ fb, P p.1) (fbW x y n : Nat) (c : Half)
    (hP : ∀ dy, dy < n → ∀ dx, dx < n → P (pixelIndex fbW (x + dx) (y + dy))) :
    ∀ p ∈ paintBlock fbW fb x y n c, P p.1 := by
  have key : ∀ k, k ≤ n → ∀ p ∈ (List.range k).foldl (fun m dy => Memory.overlay (blockRow fbW x (y + dy) n c) m) fb,
      P p.1 := by
    intro k
    induction k with
    | zero => exact fun _ => h
    | succ k ih =>
      intro hk
      rw [paintBlock_succ]
      refine Memory.overlay_index _ _ P ?_ (ih (by omega))
      intro p hp
      obtain ⟨dx, hdx, rfl⟩ := List.mem_map.mp hp
      exact hP k (by omega) dx (List.mem_range.mp hdx)
  exact key n le_rfl

theorem paintBlock_below {fb : Memory 16} {m : Nat} (h : ∀ p ∈ fb, p.1 < m) (fbW x y n : Nat) (c : Half)
    (hin : ∀ dy, dy < n → ∀ dx, dx < n → pixelIndex fbW (x + dx) (y + dy) < m) :
    ∀ p ∈ paintBlock fbW fb x y n c, p.1 < m :=
  paintBlock_index (P := (· < m)) h fbW x y n c hin

/-- Framebuffer pixels inside the frame have distinct indexes (R51). -/
theorem pixelIndex_inj {fbW x y x' y' : Nat} (hx : x < fbW) (hx' : x' < fbW)
    (h : pixelIndex fbW x y = pixelIndex fbW x' y') : x = x' ∧ y = y' := by
  simp only [pixelIndex] at h
  have column : x = x' := by
    have := congrArg (· % fbW) h
    simpa [Nat.mul_add_mod', Nat.mod_eq_of_lt hx, Nat.mod_eq_of_lt hx'] using this
  exact ⟨column, Nat.eq_of_mul_eq_mul_right (Nat.zero_lt_of_lt hx) (by omega)⟩

/-- A pixel inside the frame has an index inside the framebuffer (R49, R51). -/
theorem pixelIndex_lt {fbW fbH x y : Nat} (hx : x < fbW) (hy : y < fbH) : pixelIndex fbW x y < fbW * fbH := by
  have : (y + 1) * fbW ≤ fbH * fbW := Nat.mul_le_mul_right _ hy
  simp only [pixelIndex, Nat.add_mul, Nat.mul_comm fbW] at *
  omega

/-- A pixel after `blit`, for a block that lies inside the frame's width: the colour in the block, the old pixel
elsewhere. -/
theorem State.blit_pixel (s : State) (h : Memory.wf s.fb) (px py : Nat) (c : Half)
    (hfit : blockX s px + s.scale.toNat ≤ s.fbW) (x y : Nat) (hx : x < s.fbW) :
    (s.blit px py c).pixel x y = if InBlock s px py x y then c else s.pixel x y := by
  simp only [State.pixel, State.blit, read_paintBlock h]
  by_cases hb : InBlock s px py x y
  · rw [if_pos, if_pos hb]
    · rfl
    · obtain ⟨h1, h2, h3, h4⟩ := hb
      exact ⟨y - blockY s py, by omega, x - blockX s px, by omega, by congr 1 <;> omega⟩
  · rw [if_neg, if_neg hb]
    rintro ⟨dy, hdy, dx, hdx, he⟩
    obtain ⟨rfl, rfl⟩ := pixelIndex_inj (by omega) hx he
    exact hb ⟨by omega, by omega, by omega, by omega⟩

/-- The stores after reset are in canonical form. -/
theorem State.reset_stores_wf :
    Memory.wf State.reset.pal ∧ Memory.wf State.reset.buf ∧ Memory.wf State.reset.fb :=
  ⟨List.Pairwise.nil, List.Pairwise.nil, List.Pairwise.nil⟩

end Sys2Proof.Machine
end

