-- ==== Sys2Proof/Laws/Engine.lean ====
section
/-! SUPPORT. What a step can do, said once: the engine's turn (41_rle_engine.md R101), the next move, and which host
operations write at all. -/

namespace Sys2Proof.Machine

/-! ### Where `advance` puts the cursor (R102) -/

/-- The column of an advanced cursor, given `PX < W` before. -/
theorem State.advance_column {s : State} (n : Nat) (hp : s.px.toNat < s.actWidth.toNat) :
    (s.advance n).px.toNat = (s.linear + n) % s.actWidth.toNat := by
  have h := Nat.mod_lt (s.linear + n) (Nat.zero_lt_of_lt hp)
  have := s.actWidth.isLt
  simp [State.advance]
  omega

/-- The row of an advanced cursor, given `PX < W` before and a row that stays below 2^32. -/
theorem State.advance_row {s : State} (n : Nat) (hp : s.px.toNat < s.actWidth.toNat) (hy : s.py.toNat + n < 2 ^ 32) :
    (s.advance n).py.toNat = (s.linear + n) / s.actWidth.toNat := by
  have : (s.linear + n) / s.actWidth.toNat < s.py.toNat + n + 1 := by
    rw [Nat.div_lt_iff_lt_mul (Nat.zero_lt_of_lt hp), State.linear]
    nlinarith
  simp [State.advance]
  omega

/-- The linear position of an advanced cursor. -/
theorem State.advance_linear {s : State} (n : Nat) (hp : s.px.toNat < s.actWidth.toNat)
    (hy : s.py.toNat + n < 2 ^ 32) : (s.advance n).linear = s.linear + n := by
  have h : (s.advance n).linear = (s.advance n).py.toNat * s.actWidth.toNat + (s.advance n).px.toNat := rfl
  rw [h, State.advance_column n hp, State.advance_row n hp hy, Nat.mul_comm]
  exact Nat.div_add_mod _ _

/-! ### The engine's steps -/

/-- What FETCH can do: it reads a whole run and moves past it, as a RUN or as a SKIP (R105 to R107). -/
theorem engineFetch_cases {s t : State} (h : engineFetch s = .next t) :
    ∃ c i, Memory.read s.buf s.rp.toNat = some c ∧ Memory.read s.buf (s.rp.toNat + 1) = some i ∧
      ((i.toNat < s.actPalSize.toNat ∧ t = s.passRun.loadRun c i) ∨
       (s.actPalSize.toNat ≤ i.toNat ∧ t = s.passRun.advance c.toNat)) := by
  unfold engineFetch at h
  split at h
  · cases h
  · rename_i c hc
    split at h
    · cases h
    · rename_i i hi
      refine ⟨c, i, hc, hi, ?_⟩
      unfold decodeRun at h
      split at h
      · rename_i hlt
        exact .inl ⟨hlt, by simpa [exec, execRun] using h.symm⟩
      · rename_i hge
        exact .inr ⟨Nat.le_of_not_lt hge, by simpa [exec, execSkip] using h.symm⟩

/-- What PAINT can do (R108). -/
theorem enginePaint_cases {s t : State} (h : enginePaint s = .next t) :
    ∃ c, Memory.read s.pal s.cidx.toNat = some c ∧
      t = ((s.blit s.px.toNat s.py.toNat c).advance 1).countPixel := by
  unfold enginePaint at h
  split at h
  · cases h
  · rename_i c hc
    exact ⟨c, hc, by simpa using h.symm⟩

/-- What the engine's turn can do: nothing while IDLE; END, FETCH, CLAMP or PAINT while BUSY (R100, R101). -/
theorem engineStep_cases {s t : State} (h : engineStep s = .next t) :
    (s.busy = false ∧ t = s) ∨
    (s.busy = true ∧ s.rem = 0 ∧ s.rp = s.frameSize ∧ t = s.finish .endOfPayload) ∨
    (s.busy = true ∧ s.rem = 0 ∧ s.rp ≠ s.frameSize ∧ engineFetch s = .next t) ∨
    (s.busy = true ∧ s.rem ≠ 0 ∧ s.actHeight.toNat ≤ s.py.toNat ∧ t = s.finish .clamp) ∨
    (s.busy = true ∧ s.rem ≠ 0 ∧ s.py.toNat < s.actHeight.toNat ∧ enginePaint s = .next t) := by
  unfold engineStep at h
  split at h
  · rename_i hb
    split at h
    · rename_i hr
      exact .inr (.inl ⟨hb, hr.1, hr.2, by simpa [engineEnd] using h.symm⟩)
    · rename_i hr
      split at h
      · rename_i h0
        exact .inr (.inr (.inl ⟨hb, h0, fun e => hr ⟨h0, e⟩, h⟩))
      · rename_i h0
        split at h
        · rename_i hy
          exact .inr (.inr (.inr (.inl ⟨hb, h0, hy, by simpa [engineClamp] using h.symm⟩)))
        · rename_i hy
          exact .inr (.inr (.inr (.inr ⟨hb, h0, Nat.lt_of_not_le hy, h⟩)))
  · rename_i hb
    exact .inl ⟨by simpa using hb, by simpa using h.symm⟩

theorem step_nil {s : State} (h : s.pending = []) : step s = engineStep s := by
  simp [step, nextMove, h]

theorem step_cons {s : State} {e : Event} {rest : List Event} (h : s.pending = e :: rest) :
    step s = runEvent e { s with pending := rest } := by
  simp [step, nextMove, h]

/-- What a step can do, by what comes next (R61): the engine's turn, a host transaction, a POLL read, a reset, another
agent's pixel, or a confirmation. -/
theorem step_cases {s t : State} (h : step s = .next t) :
    (s.pending = [] ∧ engineStep s = .next t) ∨
    (∃ rest, s.pending = .engine :: rest ∧ engineStep { s with pending := rest } = .next t) ∨
    (∃ x rest, s.pending = .host x :: rest ∧ exec (decodeTxn s.bufferMax x) { s with pending := rest } = .next t) ∨
    (∃ rest, s.pending = .poll :: rest ∧
      t = ({ s with pending := if s.busy then .engine :: .poll :: rest else rest } : State).answer
        (.word (statusWord s))) ∨
    (∃ rest, s.pending = .reset :: rest ∧ t = ({ s with pending := rest } : State).resetBy) ∨
    (∃ x y c rest, s.pending = .display x y c :: rest ∧
      t = if x < s.fbW ∧ y < s.fbH then ({ s with pending := rest } : State).putPixel x y c
        else { s with pending := rest }) ∨
    (∃ rest, s.pending = .confirm :: rest ∧
      t = ({ s with pending := if s.cfgValid then rest else rest.filter fun e => !e.isHost } : State).answer
        (.word (statusWord s))) := by
  match hp : s.pending with
  | [] => exact .inl ⟨rfl, step_nil hp ▸ h⟩
  | e :: rest =>
    rw [step_cons hp] at h
    cases e with
    | engine => exact .inr (.inl ⟨rest, rfl, h⟩)
    | host x => exact .inr (.inr (.inl ⟨x, rest, rfl, h⟩))
    | poll =>
      refine .inr (.inr (.inr (.inl ⟨rest, rfl, ?_⟩)))
      cases hb : s.busy <;> simp only [runEvent, hb, exec, execRdStatus, State.readWord, Host.Outcome.next.injEq] at h <;>
        subst h <;> simp [statusWord, State.answer, hb]
    | reset => exact .inr (.inr (.inr (.inr (.inl ⟨rest, rfl, by simpa [runEvent] using h.symm⟩))))
    | display x y c =>
      exact .inr (.inr (.inr (.inr (.inr (.inl ⟨x, y, c, rest, rfl, by simpa [runEvent] using h.symm⟩)))))
    | confirm =>
      refine .inr (.inr (.inr (.inr (.inr (.inr ⟨rest, rfl, ?_⟩)))))
      cases hc : s.cfgValid <;>
        simp only [runEvent, hc, exec, execRdStatus, State.readWord, Host.Outcome.next.injEq] at h <;>
        subst h <;> simp [statusWord, State.answer, State.stopHost, hc]

/-- What one step of a recorded run can do: the next state, or the state it had with the move passed over and the fault
recorded, or nothing where an instruction were refused (R134). -/
theorem recordStep_cases (s : State) :
    (∃ t, step s = .next t ∧ recordStep s = t) ∨ (∃ f, step s = .fault f ∧ recordStep s = s.passMove.record f) ∨
    (∃ r, step s = .refused r ∧ recordStep s = s) := by
  unfold recordStep
  cases step s <;> simp

/-- The shapes a host operation's next state can have, from the state before it (40_host_ops.md): nothing, a reply, a
dropped write, WBUSY cleared, or, while IDLE, one of the writes and commands. -/
inductive HostEffect (s : State) : State → Prop
  | same : HostEffect s s
  | reply (r : Reply) : HostEffect s (s.answer r)
  | drop (h : s.busy = true) : HostEffect s s.dropWrite
  | clear : HostEffect s s.clearWbusy
  | cfgWidth (h : s.busy = false) (v : Half) : HostEffect s (s.putCfgWidth v)
  | cfgHeight (h : s.busy = false) (v : Half) : HostEffect s (s.putCfgHeight v)
  | cfgPalSize (h : s.busy = false) (v : Byte) : HostEffect s (s.putCfgPalSize v)
  | frameSize (h : s.busy = false) (v : Word) : HostEffect s (s.putFrameSize v)
  | pal (h : s.busy = false) (i : Nat) (hi : i < s.paletteMax) (v : Half) : HostEffect s (s.putPal i v)
  | buf (h : s.busy = false) (j : Nat) (hj : j < s.bufferMax) (v : Byte) : HostEffect s (s.putBuf j v)
  | commit (h : s.busy = false) : HostEffect s s.commit
  | start (h : s.busy = false) : HostEffect s s.start
  | commitStart (h : s.busy = false) : HostEffect s s.commit.start

theorem HostEffect.of_hostWrite {s : State} {f : State → State} (h : s.busy = false → HostEffect s (f s)) :
    HostEffect s (s.hostWrite f) := by
  by_cases hb : s.busy = true
  · rw [State.hostWrite_busy s f hb]
    exact .drop hb
  · have hb' : s.busy = false := by simpa using hb
    rw [State.hostWrite_idle s f hb']
    exact h hb'

/-- Every host operation has one of these shapes. -/
theorem exec_host_effect {i : Instr} {s t : State} (hbus : i.isBus = true) (hwf : i.wf s.bufferMax = true)
    (h : exec i s = .next t) : HostEffect s t := by
  cases i
  case run => cases hbus
  case skip => cases hbus
  case wrStatus d =>
    simp only [exec, execWrStatus, Host.Outcome.next.injEq] at h
    subst h
    split
    · exact .clear
    · exact .same
  case rdPal i =>
    simp only [exec, execRdPal] at h
    split at h
    · split at h
      · simp only [State.readWord, Host.Outcome.next.injEq] at h
        exact h ▸ .reply _
      · cases h
    · exact Host.Outcome.next.inj h ▸ .reply _
  case rdbBuf j =>
    simp only [exec, execRdbBuf] at h
    split at h
    · simp only [Host.Outcome.next.injEq] at h
      exact h ▸ .reply _
    · cases h
  case wrPal i d =>
    simp only [exec, execWrPal, Host.Outcome.next.injEq] at h
    subst h
    split
    · rename_i hi
      exact .of_hostWrite fun hb => .pal hb _ hi _
    · exact .same
  case wrbBuf j d =>
    simp only [exec, execWrbBuf, Host.Outcome.next.injEq] at h
    exact h ▸ .of_hostWrite fun hb => .buf hb _ (by simpa [Instr.wf] using hwf) _
  case wrCfgWidth d => exact Host.Outcome.next.inj h ▸ .of_hostWrite fun hb => .cfgWidth hb _
  case wrCfgHeight d => exact Host.Outcome.next.inj h ▸ .of_hostWrite fun hb => .cfgHeight hb _
  case wrCfgPalSize d => exact Host.Outcome.next.inj h ▸ .of_hostWrite fun hb => .cfgPalSize hb _
  case wrFrameSize d => exact Host.Outcome.next.inj h ▸ .of_hostWrite fun hb => .frameSize hb _
  case commit => exact Host.Outcome.next.inj h ▸ .of_hostWrite fun hb => .commit hb
  case start => exact Host.Outcome.next.inj h ▸ .of_hostWrite fun hb => .start hb
  case commitStart => exact Host.Outcome.next.inj h ▸ .of_hostWrite fun hb => .commitStart hb
  case hostFaultW16 => cases h
  case hostFaultW3 => cases h
  case hostFaultMisaligned => cases h
  case hostFaultW32High => cases h
  case hostFaultW8Low => cases h
  all_goals first
    | exact Host.Outcome.next.inj h ▸ .same
    | exact Host.Outcome.next.inj h ▸ .reply _

end Sys2Proof.Machine
end

