-- ==== Sys2Proof/Laws/PerInstr.lean ====
section
/-! SUPPORT. The per-instruction family RoundTrip: encoding a well-formed instruction and decoding the code, under a
palette size it fits, gives the instruction back (30_encoding.md R70, R72, R75 to R77). -/

namespace Sys2Proof.Laws

/-! ## The fields of the codes -/

theorem append_toNat {m n : Nat} (x : BitVec m) (y : BitVec n) : (x ++ y).toNat = x.toNat * 2 ^ n + y.toNat := by
  rw [BitVec.toNat_append, Nat.shiftLeft_eq, Nat.mul_comm, Nat.two_pow_add_eq_or_of_lt y.isLt]

theorem rle16_count (c i : Byte) : (rle16 c i).extractLsb' 8 8 = c := by
  apply BitVec.eq_of_toNat_eq
  have := i.isLt
  have := c.isLt
  rw [BitVec.extractLsb'_toNat, rle16, append_toNat, Nat.shiftRight_eq_div_pow]
  omega

theorem rle16_index (c i : Byte) : (rle16 c i).extractLsb' 0 8 = i := by
  apply BitVec.eq_of_toNat_eq
  have := i.isLt
  rw [BitVec.extractLsb'_toNat, rle16, append_toNat, Nat.shiftRight_zero]
  omega

theorem command_ignored (ig : BitVec 30) (c : BitVec 2) : (ig ++ c).extractLsb' 2 30 = ig := by
  apply BitVec.eq_of_toNat_eq
  have := c.isLt
  have := ig.isLt
  rw [BitVec.extractLsb'_toNat, append_toNat, Nat.shiftRight_eq_div_pow]
  omega

theorem command_bits (ig : BitVec 30) (c : BitVec 2) : (ig ++ c).extractLsb' 0 2 = c := by
  apply BitVec.eq_of_toNat_eq
  have := c.isLt
  rw [BitVec.extractLsb'_toNat, append_toNat, Nat.shiftRight_zero]
  omega

theorem palOffset_toNat (i : BitVec 4) : (palOffset i).toNat = 0x40 + 4 * i.toNat := by
  have := i.isLt
  simp [palOffset, BitVec.toNat_add, Nat.shiftLeft_eq]
  omega

theorem bufOffset_toNat (j : BitVec 15) : (bufOffset j).toNat = 0x8000 + j.toNat := by
  have := j.isLt
  simp [bufOffset, BitVec.toNat_add]
  omega

theorem palOffset_index (i : BitVec 4) : (palOffset i).extractLsb' 2 4 = i := by
  apply BitVec.eq_of_toNat_eq
  have := i.isLt
  simp [palOffset_toNat, Nat.shiftRight_eq_div_pow]
  omega

theorem bufOffset_index (j : BitVec 15) : (bufOffset j).extractLsb' 0 15 = j := by
  apply BitVec.eq_of_toNat_eq
  have := j.isLt
  simp [bufOffset_toNat]
  omega

theorem byte_of_word (b : Byte) : (b.setWidth 32).extractLsb' 0 8 = b := by
  apply BitVec.eq_of_toNat_eq
  have := b.isLt
  simp
  omega

/-- The payload index of an offset at or above 0x8000. -/
theorem window_index (off : Half) (h : 0x8000 ≤ off.toNat) : (off.extractLsb' 0 15).toNat = off.toNat - 0x8000 := by
  have := off.isLt
  simp
  omega

/-! ## The decoder on the four kinds of transaction -/

theorem decode_read32 (bufMax : Nat) (palSize : Byte) (off : Half) :
    decode bufMax palSize (.bus (.read32 off)) = decodeWordAccess .read off 0 := by
  simp [decode, decodeTxn, Txn.read32]

theorem decode_write32 (bufMax : Nat) (palSize : Byte) (off : Half) (data : Word) :
    decode bufMax palSize (.bus (.write32 off data)) = decodeWordAccess .write off data := by
  simp [decode, decodeTxn, Txn.write32]

theorem decode_read8 (bufMax : Nat) (palSize : Byte) (off : Half) :
    decode bufMax palSize (.bus (.read8 off)) = decodeByteAccess bufMax .read off 0 := by
  simp [decode, decodeTxn, Txn.read8]

theorem decode_write8 (bufMax : Nat) (palSize : Byte) (off : Half) (data : Byte) :
    decode bufMax palSize (.bus (.write8 off data)) = decodeByteAccess bufMax .write off (data.setWidth 32) := by
  simp [decode, decodeTxn, Txn.write8]

theorem decode_wid2 (bufMax : Nat) (palSize : Byte) (dir : Dir) (off : Half) :
    decode bufMax palSize (.bus ⟨2, dir, off, 0⟩) = decodeWordAccess dir off 0 := by
  simp [decode, decodeTxn]

theorem decode_wid0 (bufMax : Nat) (palSize : Byte) (dir : Dir) (off : Half) :
    decode bufMax palSize (.bus ⟨0, dir, off, 0⟩) = decodeByteAccess bufMax dir off 0 := by
  simp [decode, decodeTxn]

/-- A 32-bit write at a register's offset is the write of that register (R76). -/
theorem decode_register_write (bufMax : Nat) (palSize : Byte) (r : Reg) (data : Word) :
    decode bufMax palSize (.bus (.write32 r.offset data)) = decodeRegWrite r data := by
  rw [decode_write32]
  cases r <;> simp [decodeWordAccess, Reg.offset, Reg.ofIndex]

/-- A CTRL write is one of the four commands (R77). -/
theorem decodeCommand_cases (data : Word) :
    let ig := data.extractLsb' 2 30
    decodeCommand data = .ctrlNop ig ∨ decodeCommand data = .commit ig ∨ decodeCommand data = .start ig ∨
      decodeCommand data = .commitStart ig := by
  unfold decodeCommand
  dsimp only
  split <;> simp

/-! ## One lemma per instruction -/

/-- Decoding the code of a well-formed instruction gives it back, for every buffer capacity under which it is well
formed and under every palette size it fits. -/
def RoundTrip.Statement (i : Instr) : Prop :=
  ∀ (bufMax : Nat) (palSize : Byte), i.wf bufMax = true → i.fits palSize = true → decode bufMax palSize (encode i) = i

theorem RoundTrip.run (count index : Byte) : RoundTrip.Statement (.run count index) := by
  intro _ P _ hfit
  simp only [Instr.fits, decide_eq_true_eq] at hfit
  simp only [decode, encode, rle16_count, rle16_index, decodeRun]
  rw [if_pos hfit]

theorem RoundTrip.skip (count index : Byte) : RoundTrip.Statement (.skip count index) := by
  intro _ P _ hfit
  simp only [Instr.fits, decide_eq_true_eq] at hfit
  simp only [decode, encode, rle16_count, rle16_index, decodeRun]
  rw [if_neg (Nat.not_lt.mpr hfit)]

theorem RoundTrip.ctrlNop (ignored : BitVec 30) : RoundTrip.Statement (.ctrlNop ignored) := by
  intro _ _ _ _
  simp only [encode, Txn.command, decode_register_write, decodeRegWrite, decodeCommand, command_ignored, command_bits]
  rfl

theorem RoundTrip.commit (ignored : BitVec 30) : RoundTrip.Statement (.commit ignored) := by
  intro _ _ _ _
  simp only [encode, Txn.command, decode_register_write, decodeRegWrite, decodeCommand, command_ignored, command_bits]
  rfl

theorem RoundTrip.start (ignored : BitVec 30) : RoundTrip.Statement (.start ignored) := by
  intro _ _ _ _
  simp only [encode, Txn.command, decode_register_write, decodeRegWrite, decodeCommand, command_ignored, command_bits]
  rfl

theorem RoundTrip.commitStart (ignored : BitVec 30) : RoundTrip.Statement (.commitStart ignored) := by
  intro _ _ _ _
  simp only [encode, Txn.command, decode_register_write, decodeRegWrite, decodeCommand, command_ignored, command_bits]
  rfl

theorem RoundTrip.rdCtrl : RoundTrip.Statement (.rdCtrl) := by
  intro _ _ _ _
  rfl

theorem RoundTrip.rdStatus : RoundTrip.Statement (.rdStatus) := by
  intro _ _ _ _
  rfl

theorem RoundTrip.wrStatus (data : Word) : RoundTrip.Statement (.wrStatus data) := by
  intro B P _ _
  exact decode_register_write B P .status data

theorem RoundTrip.rdCfgWidth : RoundTrip.Statement (.rdCfgWidth) := by
  intro _ _ _ _
  rfl

theorem RoundTrip.wrCfgWidth (data : Word) : RoundTrip.Statement (.wrCfgWidth data) := by
  intro B P _ _
  exact decode_register_write B P .cfgWidth data

theorem RoundTrip.rdCfgHeight : RoundTrip.Statement (.rdCfgHeight) := by
  intro _ _ _ _
  rfl

theorem RoundTrip.wrCfgHeight (data : Word) : RoundTrip.Statement (.wrCfgHeight data) := by
  intro B P _ _
  exact decode_register_write B P .cfgHeight data

theorem RoundTrip.rdCfgPalSize : RoundTrip.Statement (.rdCfgPalSize) := by
  intro _ _ _ _
  rfl

theorem RoundTrip.wrCfgPalSize (data : Word) : RoundTrip.Statement (.wrCfgPalSize data) := by
  intro B P _ _
  exact decode_register_write B P .cfgPalSize data

theorem RoundTrip.rdFrameSize : RoundTrip.Statement (.rdFrameSize) := by
  intro _ _ _ _
  rfl

theorem RoundTrip.wrFrameSize (data : Word) : RoundTrip.Statement (.wrFrameSize data) := by
  intro B P _ _
  exact decode_register_write B P .frameSize data

theorem RoundTrip.rdActWidth : RoundTrip.Statement (.rdActWidth) := by
  intro _ _ _ _
  rfl

theorem RoundTrip.wrActWidth (data : Word) : RoundTrip.Statement (.wrActWidth data) := by
  intro B P _ _
  exact decode_register_write B P .actWidth data

theorem RoundTrip.rdActHeight : RoundTrip.Statement (.rdActHeight) := by
  intro _ _ _ _
  rfl

theorem RoundTrip.wrActHeight (data : Word) : RoundTrip.Statement (.wrActHeight data) := by
  intro B P _ _
  exact decode_register_write B P .actHeight data

theorem RoundTrip.rdActPalSize : RoundTrip.Statement (.rdActPalSize) := by
  intro _ _ _ _
  rfl

theorem RoundTrip.wrActPalSize (data : Word) : RoundTrip.Statement (.wrActPalSize data) := by
  intro B P _ _
  exact decode_register_write B P .actPalSize data

theorem RoundTrip.rdScale : RoundTrip.Statement (.rdScale) := by
  intro _ _ _ _
  rfl

theorem RoundTrip.wrScale (data : Word) : RoundTrip.Statement (.wrScale data) := by
  intro B P _ _
  exact decode_register_write B P .scale data

theorem RoundTrip.rdXoff : RoundTrip.Statement (.rdXoff) := by
  intro _ _ _ _
  rfl

theorem RoundTrip.wrXoff (data : Word) : RoundTrip.Statement (.wrXoff data) := by
  intro B P _ _
  exact decode_register_write B P .xoff data

theorem RoundTrip.rdYoff : RoundTrip.Statement (.rdYoff) := by
  intro _ _ _ _
  rfl

theorem RoundTrip.wrYoff (data : Word) : RoundTrip.Statement (.wrYoff data) := by
  intro B P _ _
  exact decode_register_write B P .yoff data

theorem RoundTrip.rdCurPx : RoundTrip.Statement (.rdCurPx) := by
  intro _ _ _ _
  rfl

theorem RoundTrip.wrCurPx (data : Word) : RoundTrip.Statement (.wrCurPx data) := by
  intro B P _ _
  exact decode_register_write B P .curPx data

theorem RoundTrip.rdCurPy : RoundTrip.Statement (.rdCurPy) := by
  intro _ _ _ _
  rfl

theorem RoundTrip.wrCurPy (data : Word) : RoundTrip.Statement (.wrCurPy data) := by
  intro B P _ _
  exact decode_register_write B P .curPy data

theorem RoundTrip.rdCurRp : RoundTrip.Statement (.rdCurRp) := by
  intro _ _ _ _
  rfl

theorem RoundTrip.wrCurRp (data : Word) : RoundTrip.Statement (.wrCurRp data) := by
  intro B P _ _
  exact decode_register_write B P .curRp data

theorem RoundTrip.rdCurRun : RoundTrip.Statement (.rdCurRun) := by
  intro _ _ _ _
  rfl

theorem RoundTrip.wrCurRun (data : Word) : RoundTrip.Statement (.wrCurRun data) := by
  intro B P _ _
  exact decode_register_write B P .curRun data

theorem RoundTrip.rdPal (i : BitVec 4) : RoundTrip.Statement (.rdPal i) := by
  intro _ _ _ _
  have := i.isLt
  have h := palOffset_toNat i
  simp only [encode, decode_read32, decodeWordAccess]
  rw [if_neg (by omega), if_neg (by omega), if_neg (by omega), if_pos (by omega), palOffset_index]

theorem RoundTrip.wrPal (i : BitVec 4) (data : Word) : RoundTrip.Statement (.wrPal i data) := by
  intro _ _ _ _
  have := i.isLt
  have h := palOffset_toNat i
  simp only [encode, decode_write32, decodeWordAccess]
  rw [if_neg (by omega), if_neg (by omega), if_neg (by omega), if_pos (by omega), palOffset_index]

theorem RoundTrip.rdRsvd (off : Half) : RoundTrip.Statement (.rdRsvd off) := by
  intro _ _ hwf _
  simp only [Instr.wf, Bool.and_eq_true, decide_eq_true_eq] at hwf
  obtain ⟨⟨h1, h2⟩, h3⟩ := hwf
  simp only [encode, decode_read32, decodeWordAccess]
  rw [if_neg (by omega), if_neg (by omega), if_neg (by omega), if_neg (by omega)]

theorem RoundTrip.wrRsvd (off : Half) (data : Word) : RoundTrip.Statement (.wrRsvd off data) := by
  intro _ _ hwf _
  simp only [Instr.wf, Bool.and_eq_true, decide_eq_true_eq] at hwf
  obtain ⟨⟨h1, h2⟩, h3⟩ := hwf
  simp only [encode, decode_write32, decodeWordAccess]
  rw [if_neg (by omega), if_neg (by omega), if_neg (by omega), if_neg (by omega)]

theorem RoundTrip.rdbBuf (j : BitVec 15) : RoundTrip.Statement (.rdbBuf j) := by
  intro _ _ hwf _
  simp only [Instr.wf, decide_eq_true_eq] at hwf
  have h := bufOffset_toNat j
  simp only [encode, decode_read8, decodeByteAccess, bufOffset_index]
  rw [if_neg (by omega), if_pos hwf]

theorem RoundTrip.wrbBuf (j : BitVec 15) (data : Byte) : RoundTrip.Statement (.wrbBuf j data) := by
  intro _ _ hwf _
  simp only [Instr.wf, decide_eq_true_eq] at hwf
  have h := bufOffset_toNat j
  simp only [encode, decode_write8, decodeByteAccess, bufOffset_index]
  rw [if_neg (by omega), if_pos hwf, byte_of_word]

theorem RoundTrip.rdbRsvd (off : Half) : RoundTrip.Statement (.rdbRsvd off) := by
  intro _ _ hwf _
  simp only [Instr.wf, decide_eq_true_eq] at hwf
  simp only [encode, decode_read8, decodeByteAccess]
  rw [if_neg (by omega), if_neg (by rw [window_index off (by omega)]; omega)]

theorem RoundTrip.wrbRsvd (off : Half) (data : Byte) : RoundTrip.Statement (.wrbRsvd off data) := by
  intro _ _ hwf _
  simp only [Instr.wf, decide_eq_true_eq] at hwf
  simp only [encode, decode_write8, decodeByteAccess]
  rw [if_neg (by omega), if_neg (by rw [window_index off (by omega)]; omega), byte_of_word]

theorem RoundTrip.hostFaultW16 (dir : Dir) (off : Half) : RoundTrip.Statement (.hostFaultW16 dir off) := by
  intro _ _ _ _
  rfl

theorem RoundTrip.hostFaultW3 (dir : Dir) (off : Half) : RoundTrip.Statement (.hostFaultW3 dir off) := by
  intro _ _ _ _
  rfl

theorem RoundTrip.hostFaultMisaligned (dir : Dir) (off : Half) : RoundTrip.Statement (.hostFaultMisaligned dir off) := by
  intro _ _ hwf _
  simp only [Instr.wf, Bool.and_eq_true, decide_eq_true_eq] at hwf
  simp only [encode, decode_wid2, decodeWordAccess]
  rw [if_neg (by omega), if_pos hwf.2]

theorem RoundTrip.hostFaultW32High (dir : Dir) (off : Half) : RoundTrip.Statement (.hostFaultW32High dir off) := by
  intro _ _ hwf _
  simp only [Instr.wf, decide_eq_true_eq] at hwf
  simp only [encode, decode_wid2, decodeWordAccess]
  rw [if_pos hwf]

theorem RoundTrip.hostFaultW8Low (dir : Dir) (off : Half) : RoundTrip.Statement (.hostFaultW8Low dir off) := by
  intro _ _ hwf _
  simp only [Instr.wf, decide_eq_true_eq] at hwf
  simp only [encode, decode_wid0, decodeByteAccess]
  rw [if_pos hwf]

end Sys2Proof.Laws
end

