-- ==== Sys2Proof/Tests/Slice0.lean ====
section
/-! SUPPORT. The model's own tests: the smoke test of WellFormed, a word of spec/ decoded for every constructor, single
steps with expected values from 95_test_vectors.md and the rules' examples, and, for every statement with hypotheses, a
concrete state and operands that meet them together. -/

namespace Sys2Proof.Tests

open Sys2Proof.Machine

/-! ## Helpers -/

/-- The next state of an outcome, if it is one. -/
def got (o : Host.Outcome State Fault Refusal) : Option State :=
  match o with
  | .next s => some s
  | .fault _ => none
  | .refused _ => none

/-- The fault of an outcome, if it is one. -/
def gotFault (o : Host.Outcome State Fault Refusal) : Option Fault :=
  match o with
  | .next _ => none
  | .fault f => some f
  | .refused _ => none

/-- STATUS after an outcome. -/
def statusAfter (o : Host.Outcome State Fault Refusal) : Option Word :=
  (got o).map statusWord

/-- What a read returned to the host. -/
def returned (o : Host.Outcome State Fault Refusal) : Option Reply :=
  (got o).bind (·.reply)

/-- The reset state with the three CFG registers written. -/
def candidate (w h : Half) (p : Byte) : State :=
  { State.reset with cfgWidth := w, cfgHeight := h, cfgPalSize := p }

/-- SCALE, XOFF, YOFF and STATUS after a COMMIT of a candidate configuration. -/
def committed (w h : Half) (p : Byte) : Option (Nat × Nat × Nat × Word) :=
  (got (exec (.commit 0) (candidate w h p))).map fun s =>
    (s.scale.toNat, s.xoff.toNat, s.yoff.toNat, statusWord s)

/-- TG10 of 95_test_vectors.md: 4 x 2 with one colour, committed; IDLE. -/
def tg10 : State :=
  { State.reset with
    cfgValid := true, cfgWidth := 4, cfgHeight := 2, cfgPalSize := 1
    actWidth := 4, actHeight := 2, actPalSize := 1, scale := 96, xoff := 0, yoff := 12 }

/-- The full canvas (TG1) with two colours, decoding the payload `RUN 1, 0` from its start. -/
def full : State :=
  { State.reset with
    busy := true, cfgValid := true, cfgWidth := 384, cfgHeight := 216, cfgPalSize := 2
    actWidth := 384, actHeight := 216, actPalSize := 2, scale := 1
    frameSize := 2, pal := [(0, 0x1111), (1, 0x2222)], buf := [(0, 1), (1, 0)], fb := [(0, 0)] }

/-- `full` with its run fetched: one PAINT is due at (0,0). -/
def painting : State := { full with rp := 2, rem := 1 }

/-- `full` with its run fetched and the cursor just below the canvas: a CLAMP is due. -/
def clamping : State := { full with rp := 2, rem := 1, py := 216, px := 0 }

/-- `full` with its payload used up: an END is due. -/
def ending : State := { full with rp := 2 }

/-- 4 x 2 pixels at scale 1: the canvas of the rules' examples, small enough to paint in a test. -/
def small : State :=
  { full with actWidth := 4, actHeight := 2, xoff := 190, yoff := 107 }

/-! ## WellFormed and fits: each check refuses an ill-formed term (30_encoding.md R72, 20_memory.md R50, R57) -/

theorem test_wf_run_index_16 : (Instr.run 1 16).wf 30000 = false := by decide
theorem test_wf_rd_rsvd_below : (Instr.rdRsvd 0x7C).wf 30000 = false := by decide
theorem test_wf_rd_rsvd_high : (Instr.rdRsvd 0x8000).wf 30000 = false := by decide
theorem test_wf_rd_rsvd_misaligned : (Instr.rdRsvd 0x82).wf 30000 = false := by decide
theorem test_wf_wr_rsvd_below : (Instr.wrRsvd 0x7C 0).wf 30000 = false := by decide
theorem test_wf_wr_rsvd_high : (Instr.wrRsvd 0x8000 0).wf 30000 = false := by decide
theorem test_wf_wr_rsvd_misaligned : (Instr.wrRsvd 0x81 0).wf 30000 = false := by decide
theorem test_wf_rdb_buf_past : (Instr.rdbBuf 30000).wf 30000 = false := by decide
theorem test_wf_wrb_buf_past : (Instr.wrbBuf 30000 0).wf 30000 = false := by decide
theorem test_wf_rdb_rsvd_inside : (Instr.rdbRsvd 0xF52F).wf 30000 = false := by decide
theorem test_wf_wrb_rsvd_inside : (Instr.wrbRsvd 0xF52F 0).wf 30000 = false := by decide
theorem test_wf_misaligned_aligned : (Instr.hostFaultMisaligned .read 4).wf 30000 = false := by decide
theorem test_wf_misaligned_high : (Instr.hostFaultMisaligned .read 0x8001).wf 30000 = false := by decide
theorem test_wf_w32_low : (Instr.hostFaultW32High .write 0x7FFC).wf 30000 = false := by decide
theorem test_wf_w8_high : (Instr.hostFaultW8Low .read 0x8000).wf 30000 = false := by decide
theorem test_fits_run_at_size : (Instr.run 1 2).fits 2 = false := by decide
theorem test_fits_skip_below_size : (Instr.skip 1 1).fits 2 = false := by decide

/-! ## Decoding: words written out from the encodings -/

/-- RLE16 is `count ++ index` (R70); the classes of TD1 to TD9. -/
theorem test_decode_run : decode 30000 2 (.rle 0x0100) = .run 1 0 ∧ decode 30000 2 (.rle 0x0101) = .run 1 1
    ∧ decode 30000 16 (.rle 0x000F) = .run 0 15 ∧ decode 30000 1 (.rle 0x0000) = .run 0 0 := by decide
theorem test_decode_skip : decode 30000 2 (.rle 0x0102) = .skip 1 2 ∧ decode 30000 15 (.rle 0x000F) = .skip 0 15
    ∧ decode 30000 16 (.rle 0x0510) = .skip 5 0x10 ∧ decode 30000 0 (.rle 0xFF80) = .skip 255 0x80
    ∧ decode 30000 16 (.rle 0xFFFF) = .skip 255 255 := by decide

/-! The key of a transaction is `wid<<17 | dir<<16 | off` (R75), the offsets are those of R76. -/

theorem test_decode_ctrl_nop : decodeTxn 30000 (Txn.ofKey 0x50000 0xFFFFFFFC) = .ctrlNop 0x3FFFFFFF := by decide
theorem test_decode_commit : decodeTxn 30000 (Txn.ofKey 0x50000 0x00000001) = .commit 0 := by decide
theorem test_decode_start : decodeTxn 30000 (Txn.ofKey 0x50000 0x00000006) = .start 1 := by decide
theorem test_decode_commit_start : decodeTxn 30000 (Txn.ofKey 0x50000 0x00000003) = .commitStart 0 := by decide
theorem test_decode_rd_ctrl : decodeTxn 30000 (Txn.ofKey 0x40000 0) = .rdCtrl := by decide
theorem test_decode_rd_status : decodeTxn 30000 (Txn.ofKey 0x40004 0) = .rdStatus := by decide
theorem test_decode_wr_status : decodeTxn 30000 (Txn.ofKey 0x50004 8) = .wrStatus 8 := by decide
theorem test_decode_rd_cfg_width : decodeTxn 30000 (Txn.ofKey 0x40008 0) = .rdCfgWidth := by decide
theorem test_decode_wr_cfg_width : decodeTxn 30000 (Txn.ofKey 0x50008 0x00010002) = .wrCfgWidth 0x00010002 := by decide
theorem test_decode_rd_cfg_height : decodeTxn 30000 (Txn.ofKey 0x4000C 0) = .rdCfgHeight := by decide
theorem test_decode_wr_cfg_height : decodeTxn 30000 (Txn.ofKey 0x5000C 0x00010002) = .wrCfgHeight 0x00010002 := by decide
theorem test_decode_rd_cfg_pal_size : decodeTxn 30000 (Txn.ofKey 0x40010 0) = .rdCfgPalSize := by decide
theorem test_decode_wr_cfg_pal_size : decodeTxn 30000 (Txn.ofKey 0x50010 0x00010002) = .wrCfgPalSize 0x00010002 := by decide
theorem test_decode_rd_frame_size : decodeTxn 30000 (Txn.ofKey 0x40014 0) = .rdFrameSize := by decide
theorem test_decode_wr_frame_size : decodeTxn 30000 (Txn.ofKey 0x50014 0x00010002) = .wrFrameSize 0x00010002 := by decide
theorem test_decode_rd_act_width : decodeTxn 30000 (Txn.ofKey 0x40018 0) = .rdActWidth := by decide
theorem test_decode_wr_act_width : decodeTxn 30000 (Txn.ofKey 0x50018 0x00010002) = .wrActWidth 0x00010002 := by decide
theorem test_decode_rd_act_height : decodeTxn 30000 (Txn.ofKey 0x4001C 0) = .rdActHeight := by decide
theorem test_decode_wr_act_height : decodeTxn 30000 (Txn.ofKey 0x5001C 0x00010002) = .wrActHeight 0x00010002 := by decide
theorem test_decode_rd_act_pal_size : decodeTxn 30000 (Txn.ofKey 0x40020 0) = .rdActPalSize := by decide
theorem test_decode_wr_act_pal_size : decodeTxn 30000 (Txn.ofKey 0x50020 0x00010002) = .wrActPalSize 0x00010002 := by decide
theorem test_decode_rd_scale : decodeTxn 30000 (Txn.ofKey 0x40024 0) = .rdScale := by decide
theorem test_decode_wr_scale : decodeTxn 30000 (Txn.ofKey 0x50024 0x00010002) = .wrScale 0x00010002 := by decide
theorem test_decode_rd_xoff : decodeTxn 30000 (Txn.ofKey 0x40028 0) = .rdXoff := by decide
theorem test_decode_wr_xoff : decodeTxn 30000 (Txn.ofKey 0x50028 0x00010002) = .wrXoff 0x00010002 := by decide
theorem test_decode_rd_yoff : decodeTxn 30000 (Txn.ofKey 0x4002C 0) = .rdYoff := by decide
theorem test_decode_wr_yoff : decodeTxn 30000 (Txn.ofKey 0x5002C 0x00010002) = .wrYoff 0x00010002 := by decide
theorem test_decode_rd_cur_px : decodeTxn 30000 (Txn.ofKey 0x40030 0) = .rdCurPx := by decide
theorem test_decode_wr_cur_px : decodeTxn 30000 (Txn.ofKey 0x50030 0x00010002) = .wrCurPx 0x00010002 := by decide
theorem test_decode_rd_cur_py : decodeTxn 30000 (Txn.ofKey 0x40034 0) = .rdCurPy := by decide
theorem test_decode_wr_cur_py : decodeTxn 30000 (Txn.ofKey 0x50034 0x00010002) = .wrCurPy 0x00010002 := by decide
theorem test_decode_rd_cur_rp : decodeTxn 30000 (Txn.ofKey 0x40038 0) = .rdCurRp := by decide
theorem test_decode_wr_cur_rp : decodeTxn 30000 (Txn.ofKey 0x50038 0x00010002) = .wrCurRp 0x00010002 := by decide
theorem test_decode_rd_cur_run : decodeTxn 30000 (Txn.ofKey 0x4003C 0) = .rdCurRun := by decide
theorem test_decode_wr_cur_run : decodeTxn 30000 (Txn.ofKey 0x5003C 0x00010002) = .wrCurRun 0x00010002 := by decide
theorem test_decode_rd_pal : decodeTxn 30000 (Txn.ofKey 0x4007C 0) = .rdPal 15 := by decide
theorem test_decode_wr_pal : decodeTxn 30000 (Txn.ofKey 0x50044 0x1234ABCD) = .wrPal 1 0x1234ABCD := by decide
theorem test_decode_rd_rsvd : decodeTxn 30000 (Txn.ofKey 0x40100 0) = .rdRsvd 0x100 := by decide
theorem test_decode_wr_rsvd : decodeTxn 30000 (Txn.ofKey 0x57FFC 7) = .wrRsvd 0x7FFC 7 := by decide
theorem test_decode_rdb_buf : decodeTxn 30000 (Txn.ofKey 0x0F52F 0) = .rdbBuf 29999 := by decide
theorem test_decode_wrb_buf : decodeTxn 30000 (Txn.ofKey 0x18003 0x00000001) = .wrbBuf 3 1 := by decide
theorem test_decode_rdb_rsvd : decodeTxn 30000 (Txn.ofKey 0x0F530 0) = .rdbRsvd 0xF530 := by decide
theorem test_decode_wrb_rsvd : decodeTxn 30000 (Txn.ofKey 0x1FFFF 9) = .wrbRsvd 0xFFFF 9 := by decide
theorem test_decode_w16 : decodeTxn 30000 (Txn.ofKey 0x20004 0) = .hostFaultW16 .read 0x004 := by decide
theorem test_decode_w3 : decodeTxn 30000 (Txn.ofKey 0x78000 0) = .hostFaultW3 .write 0x8000 := by decide
theorem test_decode_misaligned : decodeTxn 30000 (Txn.ofKey 0x40006 0) = .hostFaultMisaligned .read 0x006 := by decide
theorem test_decode_w32_high : decodeTxn 30000 (Txn.ofKey 0x58000 0) = .hostFaultW32High .write 0x8000 := by decide
theorem test_decode_w8_low : decodeTxn 30000 (Txn.ofKey 0x00004 0) = .hostFaultW8Low .read 0x004 := by decide

/-- The bytes of a payload, count first (R54); a half run and an empty payload hold none. -/
theorem test_decode_bytes : decodeBytes 2 [2, 7, 9] = .ok (.skip 2 7, [9]) ∧ decodeBytes 2 [1] = .error .halfRun
    ∧ decodeBytes 2 [] = .error .noRunLeft := by decide

/-- On a framebuffer of 20 x 10 with four palette entries (R7, R8), by R116 to R118: 4 x 2 has scale 5, 21 is too wide, 11 too
high and 5 colours too many. -/
theorem test_small_framebuffer :
    [(4, 2, 4), (20, 10, 4), (3, 3, 1), (21, 1, 1), (20, 11, 1), (20, 10, 5)].map (fun (w, h, p) =>
      (got (exec (.commit 0) { candidate w h p with fbW := 20, fbH := 10, paletteMax := 4 })).map fun s =>
        (s.scale.toNat, s.xoff.toNat, s.yoff.toNat, statusWord s)) =
    [some (5, 0, 0, 4), some (1, 0, 0, 4), some (3, 5, 0, 4), some (0, 0, 0, 0x100), some (0, 0, 0, 0x200),
      some (0, 0, 0, 0x300)] := by decide

/-- With four palette entries, PAL[3] is the last: the offset past it reads 0 and a write there does nothing (log 29). -/
theorem test_small_palette :
    (got (exec (.wrPal 3 7) { tg10 with paletteMax := 4 })).map (·.pal) = some [(3, 7)] ∧
    exec (.wrPal 4 7) { full with paletteMax := 4 } = .next { full with paletteMax := 4 } ∧
    returned (exec (.rdPal 4) { full with paletteMax := 4 }) = some (.word 0) := ⟨by decide, rfl, by decide⟩

/-- With a payload buffer of 4 bytes, the window ends at 0x8003, and START refuses 6 as too big (R9). -/
theorem test_small_buffer :
    decodeTxn 4 (Txn.ofKey 0x08003 0) = .rdbBuf 3 ∧ decodeTxn 4 (Txn.ofKey 0x08004 0) = .rdbRsvd 0x8004 ∧
    statusAfter (exec (.start 0) { tg10 with bufferMax := 4, frameSize := 6 }) = some 0x3036 ∧
    statusAfter (exec (.start 0) { tg10 with bufferMax := 4, frameSize := 4 }) = some 0x5 := by decide

/-- Words of the opcode table, as the host numbers them (log 11). -/
theorem test_table_words : decodeTableWord 16 0x0300 = some (.run 3 0) ∧ decodeTableWord 16 0x0310 = some (.skip 3 16)
    ∧ decodeTableWord 24 0x40004 = some .rdStatus ∧ decodeTableWord 24 0x20000 = some (.hostFaultW16 .read 0) := by
  decide

theorem test_placed_transaction_runs : step (State.reset.withFetchWord 24 0x40004) = exec .rdStatus State.reset := rfl

theorem test_placed_run_runs : (got (step (State.reset.withFetchWord 16 0x0301))).map
    (fun s => (s.rem, s.cidx, s.rp, s.pending)) = some (3, 1, 2, []) := by decide

/-! ## Commands (95_test_vectors.md sections 2.1 to 2.3) -/

/-- TG1 to TG11. -/
theorem test_commit_geometry :
    committed 384 216 1 = some (1, 0, 0, 4) ∧ committed 2 1 1 = some (192, 0, 12, 4) ∧
    committed 1 1 1 = some (216, 84, 0, 4) ∧ committed 128 72 1 = some (3, 0, 0, 4) ∧
    committed 100 100 1 = some (2, 92, 8, 4) ∧ committed 1 216 1 = some (1, 191, 0, 4) ∧
    committed 384 1 1 = some (1, 0, 107, 4) ∧ committed 7 5 1 = some (43, 41, 0, 4) ∧
    committed 200 100 1 = some (1, 92, 58, 4) ∧ committed 4 2 1 = some (96, 0, 12, 4) ∧
    committed 3 3 1 = some (72, 84, 0, 4) := by
  refine ⟨?_, ?_, ?_, ?_, ?_, ?_, ?_, ?_, ?_, ?_, ?_⟩ <;> decide

/-- TC1 to TC6, TC10. -/
theorem test_commit_rejects :
    committed 0 0 0 = some (0, 0, 0, 0x100) ∧ committed 385 1 1 = some (0, 0, 0, 0x100) ∧
    committed 384 0 1 = some (0, 0, 0, 0x200) ∧ committed 384 217 1 = some (0, 0, 0, 0x200) ∧
    committed 1 1 0 = some (0, 0, 0, 0x300) ∧ committed 1 1 17 = some (0, 0, 0, 0x300) ∧
    committed 0 300 0 = some (0, 0, 0, 0x100) := by
  refine ⟨?_, ?_, ?_, ?_, ?_, ?_, ?_⟩ <;> decide

/-- TS1 to TS9. -/
theorem test_start_checks :
    [0, 1, 7, 2, 30000, 30001, 30002, 0xFFFFFFFF, 0x80000000].map
      (fun size => statusAfter (exec (.start 0) { tg10 with frameSize := size })) =
    [some 0x1036, some 0x2036, some 0x2036, some 0x5, some 0x5, some 0x2036, some 0x3036, some 0x2036,
      some 0x3036] := by decide

/-- TS11: a refused START leaves the cursor registers of the last decode. TR2: a START after reset. -/
theorem test_start_refused :
    (got (exec (.start 0) { tg10 with frameSize := 3, py := 1, rp := 4, cidx := 1 })).map
      (fun s => (s.px, s.py, s.rp, curRunWord s.rem s.cidx)) = some (0, 1, 4, 0x0100) ∧
    statusAfter (exec (.start 0) State.reset) = some 0x42 := by decide

/-- P5: COMMIT and START in one write begin a decode with the new geometry. -/
theorem test_commit_start :
    (got (exec (.commitStart 0) { candidate 1 1 1 with frameSize := 2 })).map
      (fun s => (statusWord s, s.scale, s.xoff, s.yoff)) = some (0x5, 216, 84, 0) := by decide

/-- The end of P3 in one write: the COMMIT fails with PALSIZE, and the START that follows it clears FSERR and refuses with
NOCFG. -/
theorem test_commit_start_refused :
    statusAfter (exec (.commitStart 0) { tg10 with cfgPalSize := 17, done := true, result := .corrupt, fsErr := .odd })
      = some 0x342 := by decide

/-- TH13. -/
theorem test_ctrl_nop_busy : exec (.ctrlNop 0) full = .next full := rfl

/-! ## Host writes (section 2.6) -/

/-- TH2, the example of R90, TH3, the example of R92. -/
theorem test_config_writes :
    (got (exec (.wrCfgWidth 0x00010002) tg10)).map (·.cfgWidth) = some 2 ∧
    (got (exec (.wrCfgHeight 217) tg10)).map (·.cfgHeight) = some 217 ∧
    (got (exec (.wrCfgPalSize 0x102) tg10)).map (·.cfgPalSize) = some 2 ∧
    (got (exec (.wrFrameSize 0x10004) tg10)).map (·.frameSize) = some 0x10004 := by decide

/-- TC12: a CFG write without a COMMIT leaves the committed configuration. -/
theorem test_config_write_not_committed :
    (got (exec (.wrCfgWidth 2) tg10)).map (fun s => (s.actWidth, s.scale, statusWord s)) = some (4, 96, 4) := by decide

/-- TH4's write. -/
theorem test_wr_pal : (got (exec (.wrPal 1 0x1234ABCD) tg10)).map (·.pal) = some [(1, 0xABCD)] := by decide

/-- TH12, TH14: a palette write and a COMMIT while BUSY are dropped. -/
theorem test_busy_drops :
    (got (exec (.wrPal 0 0x1234) full)).map (fun s => (statusWord s, s.pal)) = some (0xD, [(0, 0x1111), (1, 0x2222)]) ∧
    (got (exec (.commit 0) full)).map (fun s => (statusWord s, s.actWidth)) = some (0xD, 384) := by decide

/-- A payload write puts its byte in place, and over an earlier one. -/
theorem test_wrb_buf :
    (got (exec (.wrbBuf 3 1) { tg10 with buf := [(0, 9), (5, 8)] })).map (·.buf) = some [(0, 9), (3, 1), (5, 8)] ∧
    (got (exec (.wrbBuf 5 1) { tg10 with buf := [(0, 9), (5, 8)] })).map (·.buf) = some [(0, 9), (5, 1)] := by decide

/-- TH15 to TH17. -/
theorem test_wr_status :
    statusAfter (exec (.wrStatus 8) { full with wbusy := true }) = some 0x5 ∧
    statusAfter (exec (.wrStatus 0xFFFFFFF7) { tg10 with wbusy := true, done := true, result := .endOfPayload })
      = some 0x1E ∧
    statusAfter (exec (.wrStatus 8) { tg10 with wbusy := true, done := true, result := .endOfPayload })
      = some 0x16 := by decide

/-- TH6, TH18 and the other read-only targets while BUSY: the state is unchanged, WBUSY with it. -/
theorem test_read_only_writes :
    exec (.wrScale 5) full = .next full ∧ exec (.wrActWidth 7) full = .next full ∧
    exec (.wrCurRun 7) full = .next full ∧ exec (.wrRsvd 0x100 7) full = .next full ∧
    exec (.wrbRsvd 0xF530 7) full = .next full := ⟨rfl, rfl, rfl, rfl, rfl⟩

/-! ## Host reads -/

/-- TH1, TH5, TH7. -/
theorem test_zero_reads :
    returned (exec .rdCtrl full) = some (.word 0) ∧ returned (exec (.rdRsvd 0x100) full) = some (.word 0) ∧
    returned (exec (.rdbRsvd 0xF530) full) = some (.byte 0) := by decide

/-- TH20, TH21: after V1, CUR_RUN is 0x0100 and STATUS reads 0x16. -/
theorem test_reads_after_end :
    returned (exec .rdCurRun { tg10 with cidx := 1 }) = some (.word 0x0100) ∧
    returned (exec .rdStatus { tg10 with done := true, result := .endOfPayload }) = some (.word 0x16) := by decide

/-- The example of R83, and each register at its own place. -/
theorem test_register_reads :
    returned (exec .rdScale { tg10 with scale := 192 }) = some (.word 192) ∧
    returned (exec .rdActWidth tg10) = some (.word 4) ∧ returned (exec .rdActHeight tg10) = some (.word 2) ∧
    returned (exec .rdActPalSize tg10) = some (.word 1) ∧ returned (exec .rdXoff small) = some (.word 190) ∧
    returned (exec .rdYoff tg10) = some (.word 12) ∧ returned (exec .rdCurPx { tg10 with px := 3 }) = some (.word 3) ∧
    returned (exec .rdCurPy { tg10 with py := 5 }) = some (.word 5) ∧
    returned (exec .rdCurRp { tg10 with rp := 6 }) = some (.word 6) ∧
    returned (exec .rdFrameSize full) = some (.word 2) ∧ returned (exec .rdCfgWidth full) = some (.word 384) := by
  decide

/-- TH4's read, the example of R87, TH19. -/
theorem test_table_reads :
    returned (exec (.rdPal 1) { tg10 with pal := [(1, 0xABCD)] }) = some (.word 0x0000ABCD) ∧
    returned (exec (.rdbBuf 3) { tg10 with buf := [(3, 1)] }) = some (.byte 1) ∧
    gotFault (exec (.rdPal 0) State.reset) = some (.unwritten .pal 0) ∧
    gotFault (exec (.rdbBuf 3) State.reset) = some (.unwritten .buf 3) := by decide

/-! ## Accesses that are not admitted (TH8 to TH11) -/

theorem test_unadmitted :
    gotFault (exec (.hostFaultW16 .read 4) full) = some (.hostFault .badWidth) ∧
    gotFault (exec (.hostFaultMisaligned .read 6) full) = some (.hostFault .misaligned) ∧
    gotFault (exec (.hostFaultW8Low .read 4) full) = some (.hostFault .badWidth) ∧
    gotFault (exec (.hostFaultW32High .write 0x8000) full) = some (.hostFault .badWidth) ∧
    gotFault (exec (.hostFaultW3 .write 0) full) = some (.hostFault .badWidth) := by decide

/-! ## The engine (section 2.5) -/

/-- The first FETCH of TE2 and R105's example. -/
theorem test_fetch_run : (got (engineStep full)).map (fun s => (s.rp, s.rem, s.cidx, s.px)) = some (2, 1, 0, 0) := by
  decide

/-- A RUN of count 0 uses its two bytes and does nothing else (R73, D31): CIDX keeps its value. -/
theorem test_fetch_empty_run :
    (got (engineStep { full with cidx := 1, buf := [(0, 0), (1, 0)] })).map (fun s => (s.rp, s.rem, s.cidx, s.px))
      = some (2, 0, 1, 0) := by decide

/-- R107's example: W = 4, cursor (3,0), SKIP 2, 7 moves the cursor to (1,1). -/
theorem test_fetch_skip :
    (got (engineStep { small with px := 3, buf := [(0, 2), (1, 7)] })).map (fun s => (s.px, s.py, s.rem, s.rp))
      = some (1, 1, 0, 2) := by decide

/-- R106: the wrap of a RUN's second pixel, painted with its palette entry at pixel (190+3, 107). -/
theorem test_paint_wraps :
    (got (engineStep { small with px := 3, rp := 2, rem := 2, cidx := 1 })).map
      (fun s => (s.px, s.py, s.rem, s.fb)) = some (0, 1, 1, [(0, 0), (107 * 384 + 193, 0x2222)]) := by decide

/-- A block of scale 2 at (92 + 2, 8 + 2): TG5's geometry, logical pixel (1,1). -/
theorem test_blit_block :
    (({ full with scale := 2, xoff := 92, yoff := 8, fb := [] } : State).blit 1 1 7).fb =
      [(10 * 384 + 94, 7), (10 * 384 + 95, 7), (11 * 384 + 94, 7), (11 * 384 + 95, 7)] := by decide

/-- TE5's CLAMP keeps the cursor and RP; TE1's END. -/
theorem test_clamp_and_end :
    (got (engineStep clamping)).map (fun s => (statusWord s, s.py, s.rp, s.rem)) = some (0x26, 216, 2, 0)
      ∧ statusAfter (engineStep ending) = some 0x16 := by decide

/-- TE11, TE13: unwritten cells. -/
theorem test_unwritten :
    gotFault (engineStep { painting with cidx := 1, pal := [(0, 0x1111)] }) = some (.unwritten .pal 1) ∧
    gotFault (engineStep { full with buf := [(1, 0)] }) = some (.unwritten .buf 0) ∧
    gotFault (engineStep { full with buf := [(0, 1)] }) = some (.unwritten .buf 1) := by decide

/-- P4 (a): the write lands between an accepted START and the engine's first turn, and is dropped. -/
theorem test_write_before_engine :
    statusAfter (step { full with pending := [.host (Txn.ofKey 0x50040 0x1234), .engine] }) = some 0xD := by decide

/-! ## Reset (section 2.7) -/

/-- TR1: the painted pixel stays, everything else is as after power-on. -/
theorem test_reset_keeps_framebuffer :
    step { full with pending := [.reset] } = .next { State.reset with fb := [(0, 0)] } := rfl

/-! ## The container file and the assembler -/

/-- R148 step 2: without a valid configuration the host sends nothing more, and RST stays pending. -/
theorem test_confirm :
    (got (step { State.reset with pending := [.confirm, .poll, .reset, .host (Txn.ofKey 0x50000 2)] })).map
      (fun s => (s.pending, s.reply)) = some ([.reset], some (.word 0)) ∧
    (got (step { tg10 with pending := [.confirm, .poll, .reset] })).map (fun s => (s.pending, s.reply))
      = some ([.poll, .reset], some (.word 4)) := by decide


/-- V1's file. -/
theorem test_container_v1 :
    readHeader [0, 0, 0, 1, 0, 2, 0, 1, 0, 0x0A, 2, 0xFF, 0xFF, 0, 0] = some (⟨1, 2, 1, 10, 2⟩, [0xFF, 0xFF, 0, 0]) ∧
    readPalette 2 [0xFF, 0xFF, 0, 0, 9] = some ([0xFFFF, 0], [9]) ∧
    readFrame [0, 0, 0, 4, 1, 0, 1, 1] = some (4, [1, 0, 1, 1], []) ∧
    (⟨1, 2, 1, 10, 2⟩ : Header).valid 384 216 16 = true ∧ (⟨1, 385, 1, 10, 2⟩ : Header).valid 384 216 16 = false := by decide

/-- TE12's payload has 652 bytes; FILL splits at 255. -/
theorem test_fill : fillBytes 256 3 = [255, 3, 1, 3] ∧ fillBytes 0 3 = [] ∧ fillBytes 255 3 = [255, 3]
    ∧ (PayloadLine.skippx 2).assemble = [2, 0xFF] := by decide

/-- P1's lines as bus transactions, by their keys and data. -/
theorem test_host_program :
    assembleHost [.wr .cfgWidth 2, .cmd .commit, .palw 1 0, .loadp [.run 1 0], .poll] =
      [.host (Txn.ofKey 0x50008 2), .host (Txn.ofKey 0x50000 1), .host (Txn.ofKey 0x50044 0),
       .host (Txn.ofKey 0x18000 1), .host (Txn.ofKey 0x18001 0), .host (Txn.ofKey 0x50014 2), .poll] := by decide

/-! ## Witnesses: for each statement with hypotheses, a state and operands that meet them together -/

theorem config_full (s : State) (hp : s.fbW = 384 ∧ s.fbH = 216 ∧ s.paletteMax = 16)
    (h : s.cfgValid = true ∧ s.cfgErr = .none ∧ s.actWidth = 384 ∧ s.actHeight = 216 ∧
      s.actPalSize = 2 ∧ s.scale = 1 ∧ s.xoff = 0 ∧ s.yoff = 0) : s.ConfigOk := by
  obtain ⟨h1, h2, h3, h4, h5, h6, h7, h8⟩ := h
  obtain ⟨p1, p2, p3⟩ := hp
  constructor <;> simp [p1, p2, p3, h1, h2, h3, h4, h5, h6, h7, h8, geoScale, geoXoff, geoYoff]

theorem stores_full : full.StoresOk := by
  constructor <;> simp [full, State.reset, Config.BUFFER_MAX, Config.FB_W, Config.FB_H, Config.PALETTE_MAX]

/-- The invariant says nothing of what is pending. -/
theorem inv_pending {s : State} (h : s.Inv) (l : List Event) : ({ s with pending := l } : State).Inv where
  parameters := ⟨h.parameters.1, h.parameters.2, h.parameters.3, h.parameters.4⟩
  stores := ⟨h.stores.1, h.stores.2, h.stores.3, h.stores.4, h.stores.5, h.stores.6⟩
  config := ⟨h.config.1, h.config.2, h.config.3, h.config.4, h.config.5, h.config.6, h.config.7, h.config.8⟩
  decode hb :=
    let d := h.decode hb
    ⟨d.1, d.2, d.3, d.4, d.5, d.6, d.7, d.8, d.9, d.10⟩
  idle := h.idle
  outcome := h.outcome
  frameError := h.frameError

theorem witness_full_inv : full.Inv where
  parameters := by constructor <;> decide
  stores := stores_full
  config := config_full _ (by decide) (by decide)
  decode _ := by constructor <;> decide
  idle h := by cases h
  outcome := by decide
  frameError := by decide

theorem witness_painting_inv : painting.Inv where
  parameters := by constructor <;> decide
  stores := ⟨stores_full.1, stores_full.2, stores_full.3, stores_full.4, stores_full.5, stores_full.6⟩
  config := config_full _ (by decide) (by decide)
  decode _ := by constructor <;> decide
  idle h := by cases h
  outcome := by decide
  frameError := by decide

/-- A run in progress with the cursor just below the canvas, the payload fetched: a CLAMP is due. -/
def below : State := { full with frameSize := 4, rp := 4, rem := 1, py := 216 }

theorem witness_below_inv : below.Inv where
  parameters := by constructor <;> decide
  stores := ⟨stores_full.1, stores_full.2, stores_full.3, stores_full.4, stores_full.5, stores_full.6⟩
  config := config_full _ (by decide) (by decide)
  decode _ := by constructor <;> decide
  idle h := by cases h
  outcome := by decide
  frameError := by decide

theorem witness_ending_inv : ending.Inv where
  parameters := by constructor <;> decide
  stores := ⟨stores_full.1, stores_full.2, stores_full.3, stores_full.4, stores_full.5, stores_full.6⟩
  config := config_full _ (by decide) (by decide)
  decode _ := by constructor <;> decide
  idle h := by cases h
  outcome := by decide
  frameError := by decide

/-- The 1 x 1 canvas (TG3) with one colour, decoding the payload `RUN 1, 0` from its start. -/
def dot : State :=
  { State.reset with
    busy := true, cfgValid := true, cfgWidth := 1, cfgHeight := 1, cfgPalSize := 1
    actWidth := 1, actHeight := 1, actPalSize := 1, scale := 216, xoff := 84
    frameSize := 2, pal := [(0, 0x1111)], buf := [(0, 1), (1, 0)] }

theorem witness_dot_inv : dot.Inv where
  parameters := by constructor <;> decide
  stores := by constructor <;> simp [dot, State.reset]
  config := by constructor <;> decide
  decode _ := by constructor <;> decide
  idle h := by cases h
  outcome := by decide
  frameError := by decide

theorem witness_DecodeEncodeRoundTrip :
    (Instr.run 255 15).wf 30000 = true ∧ (Instr.run 255 15).fits 16 = true ∧
    (Instr.skip 255 255).wf 30000 = true ∧ (Instr.skip 255 255).fits 16 = true ∧
    (Instr.rdRsvd 0x7FFC).wf 30000 = true ∧ (Instr.rdRsvd 0x7FFC).fits 0 = true := by decide

/-- The first and last offsets of both clauses. -/
theorem witness_EncodeDecodeKeepsTransaction :
    (∃ t : Txn, t.wid = 2 ∧ t.dir = .write ∧ t.off.toNat < 0x8000 ∧ t.off.toNat % 4 = 0 ∧ t.data ≠ 0) ∧
    (∃ t : Txn, t.wid = 0 ∧ t.dir = .write ∧ 0x8000 ≤ t.off.toNat ∧ t.data ≠ 0) :=
  ⟨⟨⟨2, .write, 0x7FFC, 0xFFFFFFFF⟩, by decide⟩, ⟨⟨0, .write, 0x8000, 0x1FF⟩, by decide⟩⟩

theorem witness_EveryCodeDecodesWellFormed : (16 : Byte).toNat ≤ 16 := by decide

theorem witness_DecoderAgreesWithOpcodeTable :
    (∃ r ∈ busRows, r.hits 30000 (Txn.ofKey 0x57FFC 7) = true) ∧ (16 : Byte).toNat ≤ 16 ∧
    ∃ r ∈ rleRows, r.hits 16 0x000F = true := by decide

theorem witness_RunOrSkipByCommittedPaletteSize :
    ((1 : Byte).toNat < (2 : Byte).toNat) ∧ ((2 : Byte).toNat ≤ (2 : Byte).toNat) ∧
    ((16 : Byte).toNat ≤ 16 ∧ (0x10 : Byte).extractLsb' 4 4 ≠ 0) := by decide

theorem witness_PlacedWordRunsNext :
    decodeTableWordFor State.reset.paletteMax State.reset.bufferMax 24 0x40004 = some .rdStatus ∧ 16 < 24 ∧
    decodeTableWordFor State.reset.paletteMax State.reset.bufferMax 16 0x0101 = some (.run 1 1) ∧ 16 ≤ 16 ∧ Memory.wf State.reset.buf := by decide

theorem witness_StepPerformsDecodedTransaction :
    ({ full with pending := [.host (Txn.ofKey 0x50040 0x1234), .poll] } : State).pending =
      [.host (Txn.ofKey 0x50040 0x1234), .poll] := rfl

theorem witness_EngineTurnIsEngineStep : full.pending = [] ∧
    ({ full with pending := [.engine, .poll] } : State).pending = [.engine, .poll] := by decide

/-- Both clauses with two colours: indexes 1 and 2, on either side of the palette size. -/
def fetching (index : Byte) : State := { full with buf := [(0, 1), (1, index)] }

theorem witness_FetchRunsDecodedRun : ∀ i ∈ ([1, 2] : List Byte),
    (fetching i).busy = true ∧ (fetching i).rem = 0 ∧ (fetching i).rp ≠ (fetching i).frameSize ∧
    Memory.read (fetching i).buf (fetching i).rp.toNat = some 1 ∧
    Memory.read (fetching i).buf ((fetching i).rp.toNat + 1) = some i ∧
    (i.toNat < (fetching i).actPalSize.toNat ↔ i = 1) := by decide

theorem witness_IdleEngineChangesNothing : tg10.busy = false ∧ tg10.pending = [] := by decide

theorem witness_EngineEndsAtPayloadEnd : ending.busy = true ∧ ending.rem = 0 ∧ ending.rp = ending.frameSize := by decide

theorem witness_EngineClampsBelowCanvas :
    clamping.busy = true ∧ clamping.rem ≠ 0 ∧ clamping.actHeight.toNat ≤ clamping.py.toNat := by decide

theorem witness_EnginePaintsOneBlock :
    painting.Inv ∧ painting.busy = true ∧ painting.rem ≠ 0 ∧ painting.py.toNat < painting.actHeight.toNat ∧
    Memory.read painting.pal painting.cidx.toNat = some 0x1111 ∧ InBlock painting 0 0 0 0 :=
  ⟨witness_painting_inv, by decide⟩

/-- `full` with some payload bytes and a palette in place of its own. -/
def partly (s : State) (buf : List Host.Cell) (pal : Memory 16) : State := { s with buf := buf, pal := pal }

/-- The count unwritten, the index unwritten, the palette entry unwritten. -/
theorem witness_EngineFaultsOnUnwrittenCells :
    (let s := partly full [(1, 0)] []
     s.busy = true ∧ s.rem = 0 ∧ s.rp ≠ s.frameSize ∧ Memory.read s.buf s.rp.toNat = none) ∧
    (let s := partly full [(0, 1)] []
     s.busy = true ∧ s.rem = 0 ∧ s.rp ≠ s.frameSize ∧ Memory.read s.buf s.rp.toNat ≠ none ∧
      Memory.read s.buf (s.rp.toNat + 1) = none) ∧
    (let s := partly painting [] [(1, 0)]
     s.busy = true ∧ s.rem ≠ 0 ∧ s.py.toNat < s.actHeight.toNat ∧ Memory.read s.pal s.cidx.toNat = none) := by
  refine ⟨?_, ?_, ?_⟩ <;> decide

/-- Each clause of POLL and of the confirmation. -/
theorem witness_PollRepeatsUntilIdle :
    (({ tg10 with pending := [.poll] } : State).pending = [.poll] ∧ tg10.busy = false) ∧
    (({ full with pending := [.poll] } : State).pending = [.poll] ∧ full.busy = true) ∧
    (({ tg10 with pending := [.confirm, .poll] } : State).pending = [.confirm, .poll] ∧ tg10.cfgValid = true) ∧
    (({ State.reset with pending := [.confirm, .poll, .reset] } : State).pending = [.confirm, .poll, .reset] ∧
      State.reset.cfgValid = false ∧ Event.reset.isHost = false) := by decide

/-- A run that is not empty; a RUN of count 0, index 1, and a SKIP of count 0, index 2, with two colours. -/
theorem witness_RunLoadsIndexAndCount :
    (1 : Byte) ≠ 0 ∧ ∀ i ∈ ([1, 2] : List Byte),
      let s := partly full [(0, 0), (1, i)] []
      s.busy = true ∧ s.rem = 0 ∧ s.rp ≠ s.frameSize ∧ s.px.toNat < s.actWidth.toNat ∧
      Memory.read s.buf s.rp.toNat = some 0 ∧ Memory.read s.buf (s.rp.toNat + 1) = some i := by decide

/-- The largest position of the premise, at W = 384. -/
theorem witness_SkipAdvancesCursorOnly :
    0 < ({ full with py := 11184809, px := 383 } : State).actWidth.toNat ∧
    ({ full with py := 11184809, px := 383 } : State).linear + (255 : Byte).toNat < 2 ^ 32 := by decide

theorem witness_AdvanceIsRepeatedSingleSteps :
    ({ full with px := 383, py := 215 } : State).px.toNat < ({ full with px := 383, py := 215 } : State).actWidth.toNat ∧
    ({ full with px := 383, py := 215 } : State).py.toNat + 255 < 2 ^ 32 := by decide

/-- The least and the greatest valid configuration. -/
theorem witness_CommitLatchesValidConfiguration :
    ((candidate 1 1 1).ParametersOk ∧ (candidate 1 1 1).busy = false ∧ 1 ≤ (candidate 1 1 1).cfgWidth.toNat ∧ (candidate 1 1 1).cfgWidth.toNat ≤ 384 ∧
      1 ≤ (candidate 1 1 1).cfgHeight.toNat ∧ (candidate 1 1 1).cfgHeight.toNat ≤ 216 ∧
      1 ≤ (candidate 1 1 1).cfgPalSize.toNat ∧ (candidate 1 1 1).cfgPalSize.toNat ≤ 16) ∧
    ((candidate 384 216 16).ParametersOk ∧ (candidate 384 216 16).busy = false ∧ 1 ≤ (candidate 384 216 16).cfgWidth.toNat ∧
      (candidate 384 216 16).cfgWidth.toNat ≤ 384 ∧ 1 ≤ (candidate 384 216 16).cfgHeight.toNat ∧
      (candidate 384 216 16).cfgHeight.toNat ≤ 216 ∧ 1 ≤ (candidate 384 216 16).cfgPalSize.toNat ∧
      (candidate 384 216 16).cfgPalSize.toNat ≤ 16) :=
  ⟨⟨by constructor <;> decide, by decide⟩, by constructor <;> decide, by decide⟩

/-- What COMMIT checks of a state, as the statement names it. -/
def violations (s : State) : Bool × Bool × Bool :=
  (decide (s.cfgWidth.toNat = 0 ∨ 384 < s.cfgWidth.toNat), decide (s.cfgHeight.toNat = 0 ∨ 216 < s.cfgHeight.toNat),
    decide (s.cfgPalSize.toNat = 0 ∨ 16 < s.cfgPalSize.toNat))

/-- Each clause at both ends of its field, on IDLE states: 0 and 385, 0 and 217, 0 and 17. -/
theorem witness_CommitReportsFirstViolation :
    (candidate 0 1 1).busy = false ∧ violations (candidate 0 1 1) = (true, false, false) ∧
    violations (candidate 385 217 17) = (true, true, true) ∧
    violations (candidate 1 0 1) = (false, true, false) ∧ violations (candidate 384 217 17) = (false, true, true) ∧
    violations (candidate 1 1 0) = (false, false, true) ∧ violations (candidate 384 216 17) = (false, false, true) ∧
    violations (candidate 384 216 16) = (false, false, false) := by
  refine ⟨?_, ?_, ?_, ?_, ?_, ?_, ?_, ?_⟩ <;> decide

/-- The least and the greatest accepted frame size. -/
theorem witness_StartBeginsDecode :
    ∀ size ∈ ([2, 30000] : List Word), ({ tg10 with frameSize := size } : State).busy = false ∧
      ({ tg10 with frameSize := size } : State).cfgValid = true ∧ 0 < size.toNat ∧ size.toNat % 2 = 0 ∧
      size.toNat ≤ ({ tg10 with frameSize := size } : State).bufferMax := by simp [tg10, State.reset, Config.BUFFER_MAX]

/-- BUSY; NOCFG; frame sizes at the ends of the other clauses: 0; 1 and 30001; 30002. -/
theorem witness_StartRefusesInOrder :
    full.busy = true ∧ (State.reset.busy = false ∧ State.reset.cfgValid = false) ∧
    (∀ size ∈ ([0, 1, 30001, 30002] : List Word), ({ tg10 with frameSize := size } : State).busy = false ∧
      ({ tg10 with frameSize := size } : State).cfgValid = true ∧
      (size.toNat = 0 ∨ size.toNat % 2 = 1 ∨ (size.toNat % 2 = 0 ∧ tg10.bufferMax < size.toNat))) := by simp [full, tg10, State.reset, Config.BUFFER_MAX]

theorem witness_CommitStartIsCommitThenStart : (candidate 2 1 2).busy = false := by decide

/-- A state with four palette entries, whose offsets 4 to 15 lie past the last. -/
def fourColours : State := { full with paletteMax := 4 }

theorem witness_BusyDropsProtectedWrites :
    full.busy = true ∧ (15 : BitVec 4).toNat < full.paletteMax ∧ fourColours.paletteMax ≤ (4 : BitVec 4).toNat := by decide

theorem witness_ConfigurationWritesStoreLowBits : tg10.busy = false ∧ full.busy = true := by decide

theorem witness_PaletteWriteStoresLowHalf :
    tg10.busy = false ∧ (15 : BitVec 4).toNat < tg10.paletteMax ∧ 14 ≠ (15 : BitVec 4).toNat ∧ full.busy = true ∧
    (15 : BitVec 4).toNat < full.paletteMax := by
  decide

theorem witness_PayloadWriteStoresByte :
    (29999 : BitVec 15).toNat < tg10.bufferMax ∧ tg10.busy = false ∧ 0 ≠ (29999 : BitVec 15).toNat ∧ full.busy = true := by
  decide

theorem witness_StatusWriteClearsOnlyWbusy :
    (8 : Word).getLsbD 3 = true ∧ (0xFFFFFFF7 : Word).getLsbD 3 = false := by decide

/-- The ends of the ranges of reserved offsets. -/
theorem witness_WritesWithoutEffectDoNothing :
    (∀ off ∈ ([0x80, 0x7FFC] : List Half), 0x80 ≤ off.toNat ∧ off.toNat ≤ 0x7FFC ∧ off.toNat % 4 = 0) ∧
    (∀ off ∈ ([0xF530, 0xFFFF] : List Half), 0x8000 + full.bufferMax ≤ off.toNat) := by simp [full, State.reset, Config.BUFFER_MAX]

/-- The ends of the ranges of reserved offsets. -/
theorem witness_ReservedReadsReturnZero :
    (∀ off ∈ ([0x80, 0x7FFC] : List Half), 0x80 ≤ off.toNat ∧ off.toNat ≤ 0x7FFC ∧ off.toNat % 4 = 0) ∧
    (∀ off ∈ ([0xF530, 0xFFFF] : List Half), 0x8000 + full.bufferMax ≤ off.toNat) := by simp [full, State.reset, Config.BUFFER_MAX]

/-- The five kinds of access on either side of 0x8000. -/
theorem witness_UnadmittedAccessesFault :
    ((Txn.ofKey 0x20004 0).wid = 1 ∧ (Txn.ofKey 0x60000 0).wid = 3) ∧
    ((Txn.ofKey 0x48000 0).wid = 2 ∧ 0x8000 ≤ (Txn.ofKey 0x48000 0).off.toNat) ∧
    ((Txn.ofKey 0x47FFF 0).wid = 2 ∧ (Txn.ofKey 0x47FFF 0).off.toNat < 0x8000 ∧
      (Txn.ofKey 0x47FFF 0).off.toNat % 4 ≠ 0) ∧
    ((Txn.ofKey 0x07FFF 0).wid = 0 ∧ (Txn.ofKey 0x07FFF 0).off.toNat < 0x8000) ∧
    ((Txn.ofKey 0x47FFC 0).wid = 2 ∧ (Txn.ofKey 0x47FFC 0).off.toNat < 0x8000 ∧
      (Txn.ofKey 0x47FFC 0).off.toNat % 4 = 0) ∧
    ((Txn.ofKey 0x08000 0).wid = 0 ∧ 0x8000 ≤ (Txn.ofKey 0x08000 0).off.toNat) := by decide

theorem witness_TableReadsReturnWrittenCells :
    (29999 : BitVec 15).toNat < full.bufferMax ∧ (15 : BitVec 4).toNat < full.paletteMax ∧
    Memory.read full.pal (1 : BitVec 4).toNat = some 0x2222 ∧ Memory.read full.pal (15 : BitVec 4).toNat = none ∧
    Memory.read full.buf (0 : BitVec 15).toNat = some 1 ∧ Memory.read full.buf (29999 : BitVec 15).toNat = none := by
  decide

theorem witness_ReadsHaveNoSideEffect :
    (IsRead (.rdPal 1) ∧ exec (.rdPal 1) full = .next { full with reply := some (.word 0x2222) }) ∧
    fourColours.paletteMax ≤ (4 : BitVec 4).toNat :=
  ⟨⟨.pal 1, rfl⟩, by decide⟩

theorem witness_FaultingStepChangesNothingElse :
    step { full with pending := [.host (Txn.ofKey 0x40006 0)] } = .fault (.hostFault .misaligned) ∧
    step { full with buf := [] } = .fault (.unwritten .buf 0) := ⟨rfl, rfl⟩

theorem witness_RecordedFaultsPersist :
    Fault.unwritten .buf 0 ∈ ({ full with faults := [.unwritten .buf 0] } : State).faults := by decide

theorem witness_ResetClearsAllButFramebuffer :
    ({ full with pending := [.reset, .poll] } : State).pending = [.reset, .poll] := rfl

theorem witness_StepKeepsInvariant : full.Inv ∧ step full = .next (full.passRun.loadRun 1 0) :=
  ⟨witness_full_inv, rfl⟩

theorem witness_StepKeepsStoresCanonical :
    Memory.wf full.pal ∧ Memory.wf full.buf ∧ Memory.wf full.fb ∧ step full = .next (full.passRun.loadRun 1 0) :=
  ⟨stores_full.1, stores_full.2, stores_full.3, rfl⟩

theorem witness_BusyAndDoneStayExclusive :
    ¬(ending.busy = true ∧ ending.done = true) ∧ step ending = .next (ending.finish .endOfPayload) :=
  ⟨by decide, rfl⟩

theorem witness_DecodeInputsAreConstant :
    full.busy = true ∧ full.pending.head? ≠ some .reset ∧ step full = .next (full.passRun.loadRun 1 0) :=
  ⟨by decide, by decide, rfl⟩

/-- A decode stopped by END, and one stopped by RST. -/
theorem witness_OnlyFinishOrResetStopsDecode :
    (ending.busy = true ∧ step ending = .next (ending.finish .endOfPayload) ∧
      (ending.finish .endOfPayload).busy = false) ∧
    (({ full with pending := [.reset] } : State).busy = true ∧
      step { full with pending := [.reset] } = .next full.resetBy ∧ full.resetBy.busy = false) :=
  ⟨⟨by decide, rfl, by decide⟩, by decide, rfl, by decide⟩

/-- A dropped write while a run waits to be fetched; and one while the engine is at an unwritten byte. -/
theorem witness_HostCannotDisturbDecode :
    (full.busy = true ∧ exec (decodeTxn full.bufferMax (Txn.ofKey 0x50040 0x1234)) full = .next full.dropWrite ∧
      engineStep full = .next (full.passRun.loadRun 1 0)) ∧
    engineStep { full with buf := [] } = .fault (.unwritten .buf 0) := ⟨⟨by decide, rfl, rfl⟩, rfl⟩

/-- A pixel painted, and a pixel written by another agent. -/
theorem witness_PixelsChangeOnlyWhenPainted :
    (painting.Inv ∧ step painting = .next (((painting.blit 0 0 0x1111).advance 1).countPixel) ∧
      (((painting.blit 0 0 0x1111).advance 1).countPixel).pixel 0 0 ≠ painting.pixel 0 0) ∧
    (({ full with pending := [.display 0 0 7] } : State).Inv ∧ step { full with pending := [.display 0 0 7] } = .next (full.putPixel 0 0 7) ∧
      (full.putPixel 0 0 7).pixel 0 0 ≠ full.pixel 0 0) :=
  ⟨⟨witness_painting_inv, rfl, by decide⟩, inv_pending witness_full_inv _, rfl, by decide⟩

theorem witness_PaintStaysInsideFramebuffer :
    painting.Inv ∧ painting.busy = true ∧ painting.py.toNat < painting.actHeight.toNat ∧
    InBlock painting painting.px.toNat painting.py.toNat 0 0 :=
  ⟨witness_painting_inv, by decide⟩

/-- A PAINT, a CLAMP, an END, a RUN fetched and a SKIP fetched. -/
theorem witness_CursorMovesInRasterOrder :
    (painting.Inv ∧ painting.rem ≠ 0 ∧ painting.py.toNat < painting.actHeight.toNat ∧
      engineStep painting = .next (((painting.blit 0 0 0x1111).advance 1).countPixel)) ∧
    (below.Inv ∧ below.rem ≠ 0 ∧ below.actHeight.toNat ≤ below.py.toNat ∧
      engineStep below = .next (below.finish .clamp)) ∧
    (ending.Inv ∧ ending.rem = 0 ∧ ending.rp = ending.frameSize ∧
      engineStep ending = .next (ending.finish .endOfPayload)) ∧
    (full.Inv ∧ full.rem = 0 ∧ full.rp ≠ full.frameSize ∧ engineStep full = .next (full.passRun.loadRun 1 0)) :=
  ⟨⟨witness_painting_inv, by decide, by decide, rfl⟩, ⟨witness_below_inv, by decide, by decide, rfl⟩,
    ⟨witness_ending_inv, by decide, by decide, rfl⟩, witness_full_inv, by decide, by decide, rfl⟩

theorem witness_GeometryFitsFramebuffer :
    (1 ≤ 1 ∧ 1 ≤ 384 ∧ 1 ≤ 1 ∧ 1 ≤ 216) ∧ (1 ≤ 384 ∧ 384 ≤ 384 ∧ 1 ≤ 216 ∧ 216 ≤ 216) ∧
    384 * 1 ≤ 384 ∧ 216 * 1 ≤ 216 ∧ (1 ≤ 1 ∧ 1 ≤ 65535 ∧ 1 ≤ 65535 ∧ 65535 ≤ 65535) := by decide

/-- An even and an odd leftover on each axis: 2 x 1 and 7 x 5. -/
theorem witness_ImageCentredWithinOnePixel :
    (1 ≤ 7 ∧ 7 ≤ 384 ∧ 1 ≤ 5 ∧ 5 ≤ 216) ∧
    (384 - 2 * geoScale 384 216 2 1) % 2 = 0 ∧ (216 - 1 * geoScale 384 216 2 1) % 2 = 0 ∧
    (384 - 7 * geoScale 384 216 7 5) % 2 = 1 ∧ (216 - 5 * geoScale 384 216 7 5) % 2 = 1 := by decide

theorem witness_BlocksTileImageRectangle :
    0 < full.scale.toNat ∧ InBlock full 383 215 383 215 ∧ InImage full 383 215 := by decide

theorem witness_PixelsLieRowMajorInDisplayMemory : 383 < State.reset.fbW ∧ 215 < State.reset.fbH := by decide

theorem witness_dot_loaded : dot.Loaded where
  payload := by decide
  palette := by decide

/-- `dot` with a dropped write, a POLL and another agent's write to come. -/
theorem witness_DecodeFinishesWithinBound :
    let s : State := { dot with pending := [.host (Txn.ofKey 0x50040 7), .poll, .display 0 0 7] }
    s.Inv ∧ s.DecodeBegins ∧ s.Loaded ∧ Event.reset ∉ s.pending :=
  ⟨inv_pending witness_dot_inv _, by constructor <;> decide, ⟨witness_dot_loaded.1, witness_dot_loaded.2⟩, by decide⟩

/-- `dot` with a dropped write and a POLL to come. -/
theorem witness_ExactPayloadReproducesCanvas :
    let s : State := { dot with pending := [.host (Txn.ofKey 0x50040 7), .poll] }
    s.Inv ∧ s.DecodeBegins ∧ (∀ e ∈ s.pending, e.leavesPicture = true) ∧
    ([1, 0] : List Byte).length = s.frameSize.toNat ∧
    (∀ j, j < ([1, 0] : List Byte).length → Memory.read s.buf j = ([1, 0] : List Byte)[j]?) ∧
    (∀ i : Byte, i.toNat < s.actPalSize.toNat → Memory.read s.pal i.toNat = some 0x1111) ∧
    everyRunBelow s.actPalSize.toNat [1, 0] = true ∧
    runLengthSum [1, 0] = s.actWidth.toNat * s.actHeight.toNat :=
  ⟨inv_pending witness_dot_inv _, by constructor <;> decide, by decide, by decide, by decide,
    fun i hi => by
      have h0 : i.toNat = 0 := by simpa [dot] using hi
      rw [h0]
      rfl,
    by decide, by decide⟩

/-- An entry of a palette. -/
theorem witness_ContainerReadsBackHeaderAndPalette : ([0xFFFF, 0x1234] : List Half)[1]? = some 0x1234 ∧ 3 < 4 := by decide

/-- A size with whole runs of 255 and a rest. -/
theorem witness_FillCoversItsPixels : 1 < 511 / 255 ∧ 511 % 255 ≠ 0 ∧ 2 < (511 + 254) / 255 := by decide

theorem witness_FrameRecordsFollowEachOther :
    ([1, 0, 1, 1] : List Byte).length < 2 ^ 32 ∧ ([4, 30000] : List Nat)[1]? = some 30000 := by decide

end Sys2Proof.Tests
end

/-! # Host accesses and the display's memory (20_memory.md)

Which instructions raise `HostFault` and which transactions decode to one of them (R57), and where a framebuffer pixel's two
bytes lie (R51, R56). -/

namespace Sys2Proof.Proofs

open Sys2Proof.Machine

/-! ## Which instructions raise HostFault -/

/-- The host fault an instruction stands for: the five unadmitted accesses have one, the others have none
(`exec_eq_hostFault_iff`). -/
def hostFaultOf : Instr → Option HostFaultReason
  | .hostFaultW16 _ _ | .hostFaultW3 _ _ | .hostFaultW32High _ _ | .hostFaultW8Low _ _ => some .badWidth
  | .hostFaultMisaligned _ _ => some .misaligned
  | _ => none

theorem exec_of_hostFaultOf {i : Instr} {r : HostFaultReason} (h : hostFaultOf i = some r) (s : State) :
    exec i s = .fault (.hostFault r) := by
  cases i <;> cases h <;> rfl

/-- A table read can fault only on an unwritten cell (R86). -/
theorem execRdPal_ne_hostFault (i : BitVec 4) (s : State) (r : HostFaultReason) :
    execRdPal i s ≠ .fault (.hostFault r) := by
  unfold execRdPal
  split
  · split <;> simp [State.readWord, raiseUnwritten]
  · simp [State.readWord]

/-- A payload read can fault only on an unwritten byte (R87). -/
theorem execRdbBuf_ne_hostFault (j : BitVec 15) (s : State) (r : HostFaultReason) :
    execRdbBuf j s ≠ .fault (.hostFault r) := by
  unfold execRdbBuf
  split <;> simp [raiseUnwritten]

/-- `hostFaultOf` is exactly what `exec` raises, whatever the state (R57). -/
theorem exec_eq_hostFault_iff (i : Instr) (s : State) (r : HostFaultReason) :
    exec i s = .fault (.hostFault r) ↔ hostFaultOf i = some r := by
  refine ⟨fun h => ?_, fun h => exec_of_hostFaultOf h s⟩
  cases i
  case rdPal i => exact absurd h (execRdPal_ne_hostFault i s r)
  case rdbBuf j => exact absurd h (execRdbBuf_ne_hostFault j s r)
  all_goals cases h <;> rfl

/-! ## Which transactions decode to them -/

@[simp] theorem hostFaultOf_decodeRegRead (r : Reg) : hostFaultOf (decodeRegRead r) = none := by
  cases r <;> rfl

@[simp] theorem hostFaultOf_decodeRegWrite (r : Reg) (data : Word) : hostFaultOf (decodeRegWrite r data) = none := by
  cases r
  case ctrl =>
    obtain h | h | h | h := Laws.decodeCommand_cases data <;> rw [decodeRegWrite, h] <;> rfl
  all_goals rfl

/-- A 32-bit access is admitted below 0x8000 at multiples of 4 (R57). -/
theorem hostFaultOf_decodeWordAccess (dir : Dir) (off : Half) (data : Word) :
    hostFaultOf (decodeWordAccess dir off data) =
      if 0x8000 ≤ off.toNat then some .badWidth else if off.toNat % 4 ≠ 0 then some .misaligned else none := by
  unfold decodeWordAccess
  split_ifs
  · rfl
  · rfl
  · cases dir <;> simp
  · cases dir <;> rfl
  · cases dir <;> rfl

/-- An 8-bit access is admitted at or above 0x8000 (R57). -/
theorem hostFaultOf_decodeByteAccess (bufMax : Nat) (dir : Dir) (off : Half) (data : Word) :
    hostFaultOf (decodeByteAccess bufMax dir off data) = if off.toNat < 0x8000 then some .badWidth else none := by
  unfold decodeByteAccess
  dsimp only
  split_ifs
  · rfl
  · cases dir <;> rfl
  · cases dir <;> rfl

theorem decodeTxn_wid0 (bufMax : Nat) {t : Txn} (h : t.wid = 0) :
    decodeTxn bufMax t = decodeByteAccess bufMax t.dir t.off t.data := by
  simp [decodeTxn, h]

theorem decodeTxn_wid2 (bufMax : Nat) {t : Txn} (h : t.wid = 2) :
    decodeTxn bufMax t = decodeWordAccess t.dir t.off t.data := by
  simp [decodeTxn, h]

/-- A 16-bit access and one of no width are admitted nowhere (R57). -/
theorem hostFaultOf_decodeTxn_wid1_wid3 (bufMax : Nat) {t : Txn} (h : t.wid = 1 ∨ t.wid = 3) :
    hostFaultOf (decodeTxn bufMax t) = some .badWidth := by
  obtain h | h := h <;> simp [decodeTxn, h, hostFaultOf]

/-- An admitted transaction decodes to no instruction that raises HostFault (R57). -/
theorem hostFaultOf_decodeTxn_admitted (bufMax : Nat) {t : Txn}
    (h : t.wid = 2 ∧ t.off.toNat < 0x8000 ∧ t.off.toNat % 4 = 0 ∨ t.wid = 0 ∧ 0x8000 ≤ t.off.toNat) :
    hostFaultOf (decodeTxn bufMax t) = none := by
  obtain ⟨hwid, hlow, haligned⟩ | ⟨hwid, hhigh⟩ := h
  · rw [decodeTxn_wid2 bufMax hwid, hostFaultOf_decodeWordAccess, if_neg (Nat.not_le.mpr hlow),
      if_neg (not_not.mpr haligned)]
  · rw [decodeTxn_wid0 bufMax hwid, hostFaultOf_decodeByteAccess, if_neg (Nat.not_lt.mpr hhigh)]

/-- Settles O36: the decoder sends each unadmitted access to an instruction with its fault, and an admitted one to none
that has one. -/
theorem unadmittedAccessesFault : Obligations.UnadmittedAccessesFault := by
  refine ⟨fun t s => ⟨fun hwid => ?_, fun hwid hhigh => ?_, fun hwid hlow hmisaligned => ?_, fun hwid hlow => ?_,
    fun hadmitted r hfault => ?_⟩, fun dir off s => ⟨rfl, rfl, rfl, rfl, rfl⟩⟩
  · exact exec_of_hostFaultOf (hostFaultOf_decodeTxn_wid1_wid3 s.bufferMax hwid) s
  · apply exec_of_hostFaultOf
    rw [decodeTxn_wid2 s.bufferMax hwid, hostFaultOf_decodeWordAccess, if_pos hhigh]
  · apply exec_of_hostFaultOf
    rw [decodeTxn_wid2 s.bufferMax hwid, hostFaultOf_decodeWordAccess, if_neg (Nat.not_le.mpr hlow), if_pos hmisaligned]
  · apply exec_of_hostFaultOf
    rw [decodeTxn_wid0 s.bufferMax hwid, hostFaultOf_decodeByteAccess, if_pos hlow]
  · rw [exec_eq_hostFault_iff, hostFaultOf_decodeTxn_admitted s.bufferMax hadmitted] at hfault
    cases hfault

/-! ## The framebuffer as bytes -/

/-- The column of a pixel, back from its index (R51). -/
theorem pixelIndex_mod {fbW x : Nat} (hx : x < fbW) (y : Nat) : pixelIndex fbW x y % fbW = x := by
  rw [pixelIndex, Nat.mul_add_mod', Nat.mod_eq_of_lt hx]

/-- The row of a pixel, back from its index (R51). -/
theorem pixelIndex_div {fbW x : Nat} (hx : x < fbW) (y : Nat) : pixelIndex fbW x y / fbW = y := by
  rw [pixelIndex, Nat.add_comm, Nat.add_mul_div_right _ _ (Nat.zero_lt_of_lt hx), Nat.div_eq_of_lt hx, Nat.zero_add]

/-- The two bytes of pixel `(x, y)` lie at twice its index from the base on (R51, R56). -/
theorem displayByteAt_pixel (base : Nat) (order : ByteOrder) {s : State} {x y k : Nat} (hx : x < s.fbW) (hy : y < s.fbH)
    (hk : k < 2) :
    s.displayByteAt base order (base + 2 * pixelIndex s.fbW x y + k) =
      some (if k = 0 then (pixelBytes order (s.pixel x y)).1 else (pixelBytes order (s.pixel x y)).2) := by
  have hlt : pixelIndex s.fbW x y < s.fbW * s.fbH := pixelIndex_lt hx hy
  have hindex : (base + 2 * pixelIndex s.fbW x y + k - base) / 2 = pixelIndex s.fbW x y := by omega
  have hbyte : (base + 2 * pixelIndex s.fbW x y + k - base) % 2 = k := by omega
  have hin : base ≤ base + 2 * pixelIndex s.fbW x y + k ∧
      base + 2 * pixelIndex s.fbW x y + k < base + 2 * (s.fbW * s.fbH) := by omega
  simp only [State.displayByteAt, if_pos hin, hindex, hbyte, pixelIndex_mod hx, pixelIndex_div hx]

/-- The most significant byte of a pixel. -/
theorem half_highByte (v : Half) : v.extractLsb' 8 8 = BitVec.ofNat 8 (v.toNat / 256) := by
  apply BitVec.eq_of_toNat_eq
  simp [Nat.shiftRight_eq_div_pow]

/-- The least significant byte of a pixel. -/
theorem half_lowByte (v : Half) : v.extractLsb' 0 8 = BitVec.ofNat 8 (v.toNat % 256) := by
  apply BitVec.eq_of_toNat_eq
  simp

/-- Settles O54: each byte of the pixel is `displayByteAt_pixel` at 0 or 1, and the byte order says which of the two comes
first. -/
theorem pixelsLieRowMajorInDisplayMemory : Obligations.PixelsLieRowMajorInDisplayMemory := by
  intro base x y s hx hy
  have hfirst (order : ByteOrder) := displayByteAt_pixel base order hx hy (k := 0) (by decide)
  have hsecond (order : ByteOrder) := displayByteAt_pixel base order hx hy (k := 1) (by decide)
  dsimp only
  rw [← half_highByte, ← half_lowByte]
  exact ⟨hfirst .big, hsecond .big, hfirst .little, hsecond .little⟩

end Sys2Proof.Proofs

/-! # Runs and the container's validity (30_encoding.md)

Which runs decode to a RUN and which to a SKIP (R72), and when a header is invalid and a frame record corrupt (R69). -/

namespace Sys2Proof.Proofs

open Sys2Proof.Machine

/-! ## RUN or SKIP -/

theorem decodeRun_of_lt {palSize i : Byte} (h : i.toNat < palSize.toNat) (c : Byte) :
    decodeRun palSize c i = .run c i :=
  if_pos h

theorem decodeRun_of_le {palSize i : Byte} (h : palSize.toNat ≤ i.toNat) (c : Byte) :
    decodeRun palSize c i = .skip c i :=
  if_neg (Nat.not_lt.mpr h)

/-- A byte with a bit of 7:4 set is 16 or more. -/
theorem sixteen_le_of_highNibble_ne_zero {b : Byte} (h : b.extractLsb' 4 4 ≠ 0) : 16 ≤ b.toNat := by
  by_contra hlt
  have hdiv : b.toNat / 16 = 0 := Nat.div_eq_of_lt (Nat.not_le.mp hlt)
  apply h
  apply BitVec.eq_of_toNat_eq
  simp [Nat.shiftRight_eq_div_pow, hdiv]

/-- Settles O5: an index with a bit of 7:4 set is 16 or more, so no palette size up to 16 is above it. -/
theorem runOrSkipByCommittedPaletteSize : Obligations.RunOrSkipByCommittedPaletteSize := by
  intro palSize c i
  refine ⟨fun hlt => decodeRun_of_lt hlt c, fun hle => decodeRun_of_le hle c, fun hpal hnibble => ?_⟩
  have hindex : 16 ≤ i.toNat := sixteen_le_of_highNibble_ne_zero hnibble
  exact decodeRun_of_le (hpal.trans hindex) c

/-! ## The validity of a header and of a frame record -/

/-- The conditions under which a header is valid (R69). -/
theorem header_valid_iff {fbW fbH palMax : Nat} {h : Header} :
    h.valid fbW fbH palMax = true ↔
      (0 < h.width.toNat ∧ h.width.toNat ≤ fbW) ∧ (0 < h.height.toNat ∧ h.height.toNat ≤ fbH) ∧
      0 < h.frameRate.toNat ∧ (0 < h.paletteSize.toNat ∧ h.paletteSize.toNat ≤ palMax) := by
  simp only [Header.valid, Bool.and_eq_true, decide_eq_true_eq, and_assoc]

/-- A header is valid when COMMIT finds no violation in it and its frame rate, which COMMIT does not see, is positive
(R69, R98). -/
theorem header_valid_iff_cfgErrOf {fbW fbH palMax : Nat} {h : Header} :
    h.valid fbW fbH palMax = true ↔
      0 < h.frameRate.toNat ∧
        cfgErrOf fbW fbH palMax h.width.toNat h.height.toNat h.paletteSize.toNat = .none := by
  rw [header_valid_iff, cfgErrOf_eq_none]
  constructor
  · rintro ⟨hwidth, hheight, hrate, hpal⟩
    exact ⟨hrate, hwidth, hheight, hpal⟩
  · rintro ⟨hrate, hwidth, hheight, hpal⟩
    exact ⟨hwidth, hheight, hrate, hpal⟩

/-- The conditions under which a frame record is corrupt (R69). -/
theorem frameCorrupt_iff {bufMax size : Nat} :
    frameCorrupt bufMax size = true ↔ ¬(0 < size ∧ size % 2 = 0 ∧ size ≤ bufMax) := by
  simp only [frameCorrupt, Bool.not_eq_true', ← Bool.not_eq_true, Bool.and_eq_true, decide_eq_true_eq, and_assoc]

/-- A frame record is corrupt when START finds a violation in its size (R69, R99). -/
theorem frameCorrupt_iff_fsErrOf {bufMax size : Nat} :
    frameCorrupt bufMax size = true ↔ fsErrOf bufMax size ≠ .none :=
  frameCorrupt_iff.trans (not_congr fsErrOf_eq_none).symm

/-- Settles O59: R69's conditions are those under which the checks of COMMIT (`cfgErrOf_eq_none`) and START
(`fsErrOf_eq_none`) find no violation. -/
theorem containerValidityIsCommitAndStart : Obligations.ContainerValidityIsCommitAndStart :=
  ⟨fun _ _ _ _ => ⟨header_valid_iff, header_valid_iff_cfgErrOf⟩, ⟨rfl, rfl, rfl, rfl⟩,
    fun _ _ => ⟨frameCorrupt_iff, frameCorrupt_iff_fsErrOf⟩⟩

end Sys2Proof.Proofs

/-! # Host writes and reads (40_host_ops.md)

What the decoder makes of a transaction's key (R75, R76), what each host write and read does in one equation, and the exact
effect of each (R83 to R97). -/

namespace Sys2Proof.Proofs

open Sys2Proof.Machine

/-! ## The transaction behind a key -/

/-- The key of a transaction as a number (R75). -/
theorem key_toNat (t : Txn) : t.key.toNat = t.wid.toNat * 2 ^ 17 + (t.dir.bit.toNat * 2 ^ 16 + t.off.toNat) := by
  rw [Txn.key, Laws.append_toNat, Laws.append_toNat]

@[simp] theorem dir_ofBit_bit (dir : Dir) : Dir.ofBit dir.bit = dir := by
  cases dir <;> rfl

/-- A key holds the width, the direction and the offset of its transaction (R75). -/
theorem ofKey_key (t : Txn) : Txn.ofKey t.key t.data = t := by
  have hoff := t.off.isLt
  have hdir := t.dir.bit.isLt
  have hwid := t.wid.isLt
  have hkey := key_toNat t
  have hwidField : t.key.extractLsb' 17 2 = t.wid := by
    apply BitVec.eq_of_toNat_eq
    rw [BitVec.extractLsb'_toNat, Nat.shiftRight_eq_div_pow]
    omega
  have hdirField : t.key.extractLsb' 16 1 = t.dir.bit := by
    apply BitVec.eq_of_toNat_eq
    rw [BitVec.extractLsb'_toNat, Nat.shiftRight_eq_div_pow]
    omega
  have hoffField : t.key.extractLsb' 0 16 = t.off := by
    apply BitVec.eq_of_toNat_eq
    rw [BitVec.extractLsb'_toNat, Nat.shiftRight_zero]
    omega
  rw [Txn.ofKey, hwidField, hdirField, hoffField, dir_ofBit_bit]

/-- A key is known by its number (R75). -/
theorem ofKey_eq_of_toNat {key : BitVec 19} {wid : BitVec 2} {dir : Dir} {off : Half} (data : Word)
    (h : key.toNat = wid.toNat * 2 ^ 17 + (dir.bit.toNat * 2 ^ 16 + off.toNat)) :
    Txn.ofKey key data = ⟨wid, dir, off, data⟩ := by
  have hkey : key = (⟨wid, dir, off, data⟩ : Txn).key := by
    apply BitVec.eq_of_toNat_eq
    rw [h, key_toNat]
  rw [hkey]
  exact ofKey_key ⟨wid, dir, off, data⟩

/-- The keys of the two 32-bit accesses at an offset (R75). -/
theorem ofKey_word (off : Half) (data : Word) :
    Txn.ofKey (0x40000 + off.setWidth 19) data = ⟨2, .read, off, data⟩ ∧
      Txn.ofKey (0x50000 + off.setWidth 19) data = ⟨2, .write, off, data⟩ := by
  have hoff := off.isLt
  constructor
  · exact ofKey_eq_of_toNat data (by simp [Dir.bit]; omega)
  · exact ofKey_eq_of_toNat data (by simp [Dir.bit]; omega)

/-- The keys of the two accesses of `PAL[i]` (R76). -/
theorem ofKey_palette (i : BitVec 4) (data : Word) :
    Txn.ofKey (0x40040 + BitVec.ofNat 19 (4 * i.toNat)) data = ⟨2, .read, palOffset i, data⟩ ∧
      Txn.ofKey (0x50040 + BitVec.ofNat 19 (4 * i.toNat)) data = ⟨2, .write, palOffset i, data⟩ := by
  have hi := i.isLt
  constructor
  · exact ofKey_eq_of_toNat data (by simp [Laws.palOffset_toNat, Dir.bit]; omega)
  · exact ofKey_eq_of_toNat data (by simp [Laws.palOffset_toNat, Dir.bit]; omega)

/-- The keys of the two accesses of `BUF[j]` (R76). -/
theorem ofKey_payload (j : BitVec 15) (data : Word) :
    Txn.ofKey (0x08000 + BitVec.ofNat 19 j.toNat) data = ⟨0, .read, bufOffset j, data⟩ ∧
      Txn.ofKey (0x18000 + BitVec.ofNat 19 j.toNat) data = ⟨0, .write, bufOffset j, data⟩ := by
  have hj := j.isLt
  constructor
  · exact ofKey_eq_of_toNat data (by simp [Laws.bufOffset_toNat, Dir.bit]; omega)
  · exact ofKey_eq_of_toNat data (by simp [Laws.bufOffset_toNat, Dir.bit]; omega)

/-! ## The instruction it decodes to -/

/-- The 32-bit read at a register's offset is the read of that register, whatever data it carries (R75, R76). -/
theorem decodeTxn_register_read (bufMax : Nat) (r : Reg) (data : Word) :
    decodeTxn bufMax (Txn.ofKey (0x40000 + r.offset.setWidth 19) data) = decodeRegRead r := by
  rw [(ofKey_word r.offset data).1, decodeTxn_wid2 bufMax rfl]
  cases r <;> simp [decodeWordAccess, Reg.offset, Reg.ofIndex]

/-- The 32-bit write at a register's offset is the write of that register (R76). -/
theorem decodeTxn_register_write (bufMax : Nat) (r : Reg) (data : Word) :
    decodeTxn bufMax (Txn.ofKey (0x50000 + r.offset.setWidth 19) data) = decodeRegWrite r data := by
  rw [(ofKey_word r.offset data).2]
  exact Laws.decode_register_write bufMax 0 r data

theorem decodeTxn_palette_read (bufMax : Nat) (i : BitVec 4) (data : Word) :
    decodeTxn bufMax (Txn.ofKey (0x40040 + BitVec.ofNat 19 (4 * i.toNat)) data) = .rdPal i := by
  rw [(ofKey_palette i data).1]
  exact Laws.RoundTrip.rdPal i bufMax 0 rfl rfl

theorem decodeTxn_palette_write (bufMax : Nat) (i : BitVec 4) (data : Word) :
    decodeTxn bufMax (Txn.ofKey (0x50040 + BitVec.ofNat 19 (4 * i.toNat)) data) = .wrPal i data := by
  rw [(ofKey_palette i data).2]
  exact Laws.RoundTrip.wrPal i data bufMax 0 rfl rfl

theorem decodeTxn_payload_read {bufMax : Nat} {j : BitVec 15} (hj : j.toNat < bufMax) (data : Word) :
    decodeTxn bufMax (Txn.ofKey (0x08000 + BitVec.ofNat 19 j.toNat) data) = .rdbBuf j := by
  rw [(ofKey_payload j data).1]
  exact Laws.RoundTrip.rdbBuf j bufMax 0 (decide_eq_true hj) rfl

theorem decodeTxn_payload_write {bufMax : Nat} {j : BitVec 15} (hj : j.toNat < bufMax) (b : Byte) :
    decodeTxn bufMax (Txn.ofKey (0x18000 + BitVec.ofNat 19 j.toNat) (b.setWidth 32)) = .wrbBuf j b := by
  rw [(ofKey_payload j _).2]
  exact Laws.RoundTrip.wrbBuf j b bufMax 0 (decide_eq_true hj) rfl

section Reserved

variable {off : Half} (hlow : 0x80 ≤ off.toNat) (hhigh : off.toNat ≤ 0x7FFC) (haligned : off.toNat % 4 = 0)

include hlow hhigh haligned

/-- The offsets of the reserved 32-bit locations (R50) are those the opcode table gives to their two accesses. -/
theorem reserved_wf (bufMax : Nat) (data : Word) :
    (Instr.rdRsvd off).wf bufMax = true ∧ (Instr.wrRsvd off data).wf bufMax = true := by
  have hwindow : off.toNat < 0x8000 := by omega
  simp [Instr.wf, hlow, hwindow, haligned]

theorem decodeTxn_reserved_read (bufMax : Nat) (data : Word) :
    decodeTxn bufMax ⟨2, .read, off, data⟩ = .rdRsvd off :=
  Laws.RoundTrip.rdRsvd off bufMax 0 (reserved_wf hlow hhigh haligned bufMax data).1 rfl

theorem decodeTxn_reserved_write (bufMax : Nat) (data : Word) :
    decodeTxn bufMax ⟨2, .write, off, data⟩ = .wrRsvd off data :=
  Laws.RoundTrip.wrRsvd off data bufMax 0 (reserved_wf hlow hhigh haligned bufMax data).2 rfl

end Reserved

theorem decodeTxn_reserved_byte_read {bufMax : Nat} {off : Half} (h : 0x8000 + bufMax ≤ off.toNat) (data : Word) :
    decodeTxn bufMax ⟨0, .read, off, data⟩ = .rdbRsvd off :=
  Laws.RoundTrip.rdbRsvd off bufMax 0 (decide_eq_true h) rfl

theorem decodeTxn_reserved_byte_write {bufMax : Nat} {off : Half} (h : 0x8000 + bufMax ≤ off.toNat) (b : Byte) :
    decodeTxn bufMax ⟨0, .write, off, b.setWidth 32⟩ = .wrbRsvd off b :=
  Laws.RoundTrip.wrbRsvd off b bufMax 0 (decide_eq_true h) rfl

/-! ## Operands -/

/-- `data[15:0]` as a number (R77). -/
theorem lowHalf_eq (data : Word) : lowHalf data = BitVec.ofNat 16 (data.toNat % 65536) := by
  apply BitVec.eq_of_toNat_eq
  simp [lowHalf]

/-- `data[7:0]` as a number (R77). -/
theorem lowByte_eq (data : Word) : lowByte data = BitVec.ofNat 8 (data.toNat % 256) := by
  apply BitVec.eq_of_toNat_eq
  simp [lowByte]

/-- Widening keeps the number (R12). -/
theorem zext32_eq {width : Nat} (v : BitVec width) : zext32 v = BitVec.ofNat 32 v.toNat :=
  (BitVec.ofNat_toNat 32 v).symm

/-- CUR_RUN as a number: `CIDX` above `REM` (R40). -/
theorem curRunWord_eq (rem cidx : Byte) : curRunWord rem cidx = BitVec.ofNat 32 (cidx.toNat * 256 + rem.toNat) := by
  rw [curRunWord, zext32_eq, Laws.append_toNat, show 2 ^ 8 = 256 from rfl]

@[simp] theorem flagBit_toNat (b : Bool) : (flagBit b).toNat = b.toNat := by
  cases b <;> rfl

/-- STATUS as a number, each field at its bit (R26). -/
theorem statusWord_eq (s : State) :
    statusWord s = BitVec.ofNat 32
      (s.busy.toNat + 2 * s.done.toNat + 4 * s.cfgValid.toNat + 8 * s.wbusy.toNat + 16 * s.result.code.toNat +
        256 * s.cfgErr.code.toNat + 4096 * s.fsErr.code.toNat) := by
  rw [statusWord, zext32_eq]
  congr 1
  simp only [Laws.append_toNat, flagBit_toNat]
  omega

/-! ## What each access does -/

/-- A write under the busy-write rule has its effect on an idle VPDEC (R82). -/
theorem next_hostWrite_idle {s : State} (effect : State → State) (h : s.busy = false) :
    (.next (s.hostWrite effect) : Host.Outcome State Fault Refusal) = .next (effect s) := by
  rw [State.hostWrite_idle s effect h]

/-- A write under the busy-write rule is dropped while BUSY: only WBUSY is set (R82). -/
theorem next_hostWrite_busy {s : State} (effect : State → State) (h : s.busy = true) :
    (.next (s.hostWrite effect) : Host.Outcome State Fault Refusal) = .next { s with wbusy := true } := by
  rw [State.hostWrite_busy s effect h, State.dropWrite]

theorem exec_wrCfgWidth (v : Word) (s : State) :
    exec (.wrCfgWidth v) s = .next (s.hostWrite (·.putCfgWidth (lowHalf v))) := rfl

theorem exec_wrCfgHeight (v : Word) (s : State) :
    exec (.wrCfgHeight v) s = .next (s.hostWrite (·.putCfgHeight (lowHalf v))) := rfl

theorem exec_wrCfgPalSize (v : Word) (s : State) :
    exec (.wrCfgPalSize v) s = .next (s.hostWrite (·.putCfgPalSize (lowByte v))) := rfl

theorem exec_wrFrameSize (v : Word) (s : State) :
    exec (.wrFrameSize v) s = .next (s.hostWrite (·.putFrameSize v)) := rfl

theorem exec_wrbBuf (j : BitVec 15) (b : Byte) (s : State) :
    exec (.wrbBuf j b) s = .next (s.hostWrite (·.putBuf j.toNat b)) := rfl

/-- A write of an entry the palette table has is a write under the busy-write rule (R93). -/
theorem exec_wrPal_of_lt {i : BitVec 4} {s : State} (hi : i.toNat < s.paletteMax) (v : Word) :
    exec (.wrPal i v) s = .next (s.hostWrite (·.putPal i.toNat (lowHalf v))) :=
  congrArg Host.Outcome.next (if_pos hi)

theorem exec_wrStatus (v : Word) (s : State) :
    exec (.wrStatus v) s = .next (if v.getLsbD 3 then s.clearWbusy else s) := rfl

/-- A read that returns a value of any width zero-extended (R83). -/
theorem readWord_zext32 {width : Nat} (s : State) (v : BitVec width) :
    s.readWord (zext32 v) = .next { s with reply := some (.word (BitVec.ofNat 32 v.toNat)) } := by
  rw [zext32_eq, State.readWord, State.answer]

/-- A read that returns a register of 32 bits (R83). -/
theorem readWord_word (s : State) (v : Word) :
    s.readWord v = .next { s with reply := some (.word (BitVec.ofNat 32 v.toNat)) } := by
  rw [BitVec.ofNat_toNat, BitVec.setWidth_eq, State.readWord, State.answer]

/-- A read that returns CUR_RUN (R40, R83). -/
theorem readWord_curRun (s : State) (rem cidx : Byte) :
    s.readWord (curRunWord rem cidx) =
      .next { s with reply := some (.word (BitVec.ofNat 32 (cidx.toNat * 256 + rem.toNat))) } := by
  rw [curRunWord_eq, State.readWord, State.answer]

/-- The read of a written entry of the palette table (R86). -/
theorem exec_rdPal_written {i : BitVec 4} {s : State} {v : Half} (hi : i.toNat < s.paletteMax)
    (hv : Memory.read s.pal i.toNat = some v) : exec (.rdPal i) s = s.readWord (zext32 v) := by
  simp [exec, execRdPal, hi, hv]

/-- The read of an unwritten entry of the palette table (R86). -/
theorem exec_rdPal_unwritten {i : BitVec 4} {s : State} (hi : i.toNat < s.paletteMax)
    (hnone : Memory.read s.pal i.toNat = none) : exec (.rdPal i) s = raiseUnwritten .pal i.toNat := by
  simp [exec, execRdPal, hi, hnone]

/-- The read of a written payload byte (R87). -/
theorem exec_rdbBuf_written {j : BitVec 15} {s : State} {b : Byte} (hb : Memory.read s.buf j.toNat = some b) :
    exec (.rdbBuf j) s = .next (s.answer (.byte b)) := by
  simp [exec, execRdbBuf, hb]

/-- The read of an unwritten payload byte (R87). -/
theorem exec_rdbBuf_unwritten {j : BitVec 15} {s : State} (hnone : Memory.read s.buf j.toNat = none) :
    exec (.rdbBuf j) s = raiseUnwritten .buf j.toNat := by
  simp [exec, execRdbBuf, hnone]

/-! ## The host's writes -/

/-- Settles O26: the four writes are under the busy-write rule, and `lowHalf_eq` and `lowByte_eq` say what they store. -/
theorem configurationWritesStoreLowBits : Obligations.ConfigurationWritesStoreLowBits := by
  intro v s
  have hdecode (r : Reg) := decodeTxn_register_write s.bufferMax r v
  rw [← lowHalf_eq, ← lowByte_eq, exec_wrCfgWidth, exec_wrCfgHeight, exec_wrCfgPalSize, exec_wrFrameSize]
  refine ⟨⟨hdecode .cfgWidth, hdecode .cfgHeight, hdecode .cfgPalSize, hdecode .frameSize⟩, fun hidle => ?_,
    fun hbusy => ?_⟩
  · exact ⟨next_hostWrite_idle _ hidle, next_hostWrite_idle _ hidle, next_hostWrite_idle _ hidle,
      next_hostWrite_idle _ hidle⟩
  · exact ⟨next_hostWrite_busy _ hbusy, next_hostWrite_busy _ hbusy, next_hostWrite_busy _ hbusy,
      next_hostWrite_busy _ hbusy⟩

/-- Settles O27: an admitted palette write is one `Memory.write` under the busy-write rule. -/
theorem paletteWriteStoresLowHalf : Obligations.PaletteWriteStoresLowHalf := by
  intro i v s
  rw [← lowHalf_eq]
  refine ⟨decodeTxn_palette_write s.bufferMax i v, fun hi hidle => ?_, fun hi hbusy => ?_⟩
  · rw [exec_wrPal_of_lt hi, next_hostWrite_idle _ hidle]
    exact ⟨_, rfl, Memory.read_write_same _ _ _, fun k hk => Memory.read_write_other _ _ hk, rfl⟩
  · rw [exec_wrPal_of_lt hi, next_hostWrite_busy _ hbusy]

/-- Settles O28: a payload write is one `Memory.write` under the busy-write rule. -/
theorem payloadWriteStoresByte : Obligations.PayloadWriteStoresByte := by
  intro j b s
  rw [exec_wrbBuf]
  refine ⟨fun hj => decodeTxn_payload_write hj b, fun hidle => ?_, fun hbusy => next_hostWrite_busy _ hbusy⟩
  rw [next_hostWrite_idle _ hidle]
  exact ⟨_, rfl, Memory.read_write_same _ _ _, fun k hk => Memory.read_write_other _ _ hk, rfl⟩

/-- Settles O29: bit 3 chooses between clearing WBUSY and the state as it was, and BUSY is not looked at. -/
theorem statusWriteClearsOnlyWbusy : Obligations.StatusWriteClearsOnlyWbusy := by
  intro v s
  rw [exec_wrStatus]
  refine ⟨decodeTxn_register_write s.bufferMax .status v, fun hset => ?_, fun hclear => ?_⟩
  · rw [if_pos hset, State.clearWbusy]
  · rw [hclear, if_neg Bool.false_ne_true]

/-- Settles O30: the accesses decode to the writes that ignore their data, whose one arm in `exec` is the state itself. -/
theorem writesWithoutEffectDoNothing : Obligations.WritesWithoutEffectDoNothing := by
  intro v off b ig s
  have hdecode (r : Reg) := decodeTxn_register_write s.bufferMax r v
  refine ⟨⟨hdecode .actWidth, hdecode .actHeight, hdecode .actPalSize, hdecode .scale, hdecode .xoff, hdecode .yoff,
    hdecode .curPx, hdecode .curPy, hdecode .curRp, hdecode .curRun, ?_, ?_⟩, ?_⟩
  · exact fun hlow hhigh haligned => decodeTxn_reserved_write hlow hhigh haligned s.bufferMax v
  · exact fun hreserved => decodeTxn_reserved_byte_write hreserved b
  · exact ⟨rfl, rfl, rfl, rfl, rfl, rfl, rfl, rfl, rfl, rfl, rfl, rfl, rfl⟩

/-! ## The host's reads -/

/-- Settles O31: every register read is a `readWord`, of the register zero-extended where it is narrower than 32 bits. -/
theorem registerReadsReturnValue : Obligations.RegisterReadsReturnValue := by
  intro v s
  have hdecode (r : Reg) := decodeTxn_register_read s.bufferMax r v
  refine ⟨⟨hdecode .cfgWidth, hdecode .cfgHeight, hdecode .cfgPalSize, hdecode .frameSize, hdecode .actWidth,
    hdecode .actHeight, hdecode .actPalSize, hdecode .scale, hdecode .xoff, hdecode .yoff, hdecode .curPx, hdecode .curPy,
    hdecode .curRp, hdecode .curRun⟩, ?_⟩
  exact ⟨readWord_zext32 s s.cfgWidth, readWord_zext32 s s.cfgHeight, readWord_zext32 s s.cfgPalSize,
    readWord_word s s.frameSize, readWord_zext32 s s.actWidth, readWord_zext32 s s.actHeight,
    readWord_zext32 s s.actPalSize, readWord_zext32 s s.scale, readWord_zext32 s s.xoff, readWord_zext32 s s.yoff,
    readWord_zext32 s s.px, readWord_word s s.py, readWord_word s s.rp, readWord_curRun s s.rem s.cidx⟩

/-- Settles O32: `statusWord_eq` places the fields, and the code tables are fixed numbers. -/
theorem controlAndStatusReads : Obligations.ControlAndStatusReads := by
  refine ⟨⟨rfl, rfl, rfl⟩, fun v s => ?_⟩
  rw [← statusWord_eq]
  exact ⟨decodeTxn_register_read s.bufferMax .ctrl v, decodeTxn_register_read s.bufferMax .status v, rfl, rfl⟩

/-- Settles O33: the reads of reserved locations decode to the two instructions that answer 0. -/
theorem reservedReadsReturnZero : Obligations.ReservedReadsReturnZero := by
  intro off v s
  refine ⟨?_, ?_, rfl, rfl⟩
  · exact fun hlow hhigh haligned => decodeTxn_reserved_read hlow hhigh haligned s.bufferMax v
  · exact fun hreserved => decodeTxn_reserved_byte_read hreserved v

/-- Settles O34: a read of a table has one equation for a written cell and one for an unwritten cell. -/
theorem tableReadsReturnWrittenCells : Obligations.TableReadsReturnWrittenCells := by
  intro s i j d
  refine ⟨decodeTxn_palette_read s.bufferMax i d, fun hj => decodeTxn_payload_read hj d, fun v hi hv => ?_,
    fun hi hnone => ?_, fun b hb => ?_, fun hnone => ?_⟩
  · exact (exec_rdPal_written hi hv).trans (readWord_zext32 s v)
  · exact exec_rdPal_unwritten hi hnone
  · exact exec_rdbBuf_written hb
  · exact exec_rdbBuf_unwritten hnone

end Sys2Proof.Proofs

/-! # The engine's steps (41_rle_engine.md)

The step that R101 picks, as one equation per case; `advance` as repeated single steps (R102); what START does (R99). -/

namespace Sys2Proof.Proofs

open Sys2Proof.Machine

/-! ## The step that R101 picks -/

theorem engineStep_idle {s : State} (hidle : s.busy = false) : engineStep s = .next s := by
  simp [engineStep, hidle]

theorem engineStep_end {s : State} (hbusy : s.busy = true) (hrem : s.rem = 0) (hrp : s.rp = s.frameSize) :
    engineStep s = .next (s.finish .endOfPayload) := by
  simp [engineStep, engineEnd, hbusy, hrem, hrp]

theorem engineStep_fetch {s : State} (hbusy : s.busy = true) (hrem : s.rem = 0) (hrp : s.rp ≠ s.frameSize) :
    engineStep s = engineFetch s := by
  simp [engineStep, hbusy, hrem, hrp]

theorem engineStep_clamp {s : State} (hbusy : s.busy = true) (hrem : s.rem ≠ 0)
    (hrow : s.actHeight.toNat ≤ s.py.toNat) : engineStep s = .next (s.finish .clamp) := by
  rw [engineStep, if_pos hbusy, if_neg fun h => hrem h.1, if_neg hrem, if_pos hrow, engineClamp]

theorem engineStep_paint {s : State} (hbusy : s.busy = true) (hrem : s.rem ≠ 0)
    (hrow : s.py.toNat < s.actHeight.toNat) : engineStep s = enginePaint s := by
  rw [engineStep, if_pos hbusy, if_neg fun h => hrem h.1, if_neg hrem, if_neg (Nat.not_le.mpr hrow)]

/-- FETCH of a RUN loads it (R105, R106). -/
theorem engineFetch_run {s : State} {c i : Byte} (hc : Memory.read s.buf s.rp.toNat = some c)
    (hi : Memory.read s.buf (s.rp.toNat + 1) = some i) (hlt : i.toNat < s.actPalSize.toNat) :
    engineFetch s = .next (s.passRun.loadRun c i) := by
  simp [engineFetch, hc, hi, decodeRun_of_lt hlt, exec, execRun]

/-- FETCH of a SKIP advances the cursor (R105, R107). -/
theorem engineFetch_skip {s : State} {c i : Byte} (hc : Memory.read s.buf s.rp.toNat = some c)
    (hi : Memory.read s.buf (s.rp.toNat + 1) = some i) (hle : s.actPalSize.toNat ≤ i.toNat) :
    engineFetch s = .next (s.passRun.advance c.toNat) := by
  simp [engineFetch, hc, hi, decodeRun_of_le hle, exec, execSkip]

/-- PAINT with a written palette entry (R108). -/
theorem enginePaint_written {s : State} {colour : Half} (hpal : Memory.read s.pal s.cidx.toNat = some colour) :
    enginePaint s = .next ((s.blit s.px.toNat s.py.toNat colour).advance 1).countPixel := by
  simp [enginePaint, hpal]

/-- Settles O12: the END step is `finish` with END, which writes these four fields. -/
theorem engineEndsAtPayloadEnd : Obligations.EngineEndsAtPayloadEnd := by
  intro s hbusy hrem hrp
  rw [engineStep_end hbusy hrem hrp, State.finish]

/-- Settles O13: the CLAMP step is `finish` with CLAMP, which writes these four fields. -/
theorem engineClampsBelowCanvas : Obligations.EngineClampsBelowCanvas := by
  intro s hbusy hrem hrow
  rw [engineStep_clamp hbusy hrem hrow, State.finish]

/-! ## `advance` -/

/-- `advance(0)` changes nothing (R102). -/
theorem advance_zero {s : State} (hp : s.px.toNat < s.actWidth.toNat) : s.advance 0 = s := by
  have hpos : 0 < s.actWidth.toNat := Nat.zero_lt_of_lt hp
  have hcolumn : s.linear % s.actWidth.toNat = s.px.toNat := by
    rw [State.linear, Nat.mul_add_mod', Nat.mod_eq_of_lt hp]
  have hrow : s.linear / s.actWidth.toNat = s.py.toNat := by
    rw [State.linear, Nat.add_comm, Nat.add_mul_div_right _ _ hpos, Nat.div_eq_of_lt hp, Nat.zero_add]
  simp [State.advance, hcolumn, hrow]

/-- Moving m and then n pixels forward is moving m + n forward (R102). -/
theorem advance_advance {s : State} (m n : Nat) (hp : s.px.toNat < s.actWidth.toNat) (hy : s.py.toNat + m < 2 ^ 32) :
    (s.advance m).advance n = s.advance (m + n) := by
  have hlinear : (s.advance m).linear + n = s.linear + (m + n) := by
    rw [State.advance_linear m hp hy, Nat.add_assoc]
  rw [State.advance, hlinear]
  rfl

/-- The source's single step is `advance(1)`: it starts a new row exactly where `L + 1` is a multiple of the width
(R102). -/
theorem advanceOne_eq_advance {s : State} (hp : s.px.toNat < s.actWidth.toNat) : s.advanceOne = s.advance 1 := by
  have hw := s.actWidth.isLt
  have hnext : (s.px + 1).toNat = s.px.toNat + 1 := by
    rw [BitVec.toNat_add, show (1 : Half).toNat = 1 from rfl, Nat.mod_eq_of_lt (by omega)]
  by_cases hwrap : s.px + 1 = s.actWidth
  · have hlast : s.px.toNat + 1 = s.actWidth.toNat := by rw [← hnext, hwrap]
    have hlinear : s.linear + 1 = (s.py.toNat + 1) * s.actWidth.toNat := by
      rw [State.linear, Nat.add_assoc, hlast, Nat.succ_mul]
    have hpos : 0 < s.actWidth.toNat := Nat.zero_lt_of_lt hp
    rw [State.advanceOne, if_pos hwrap, State.advance, hlinear, Nat.mul_mod_left, Nat.mul_div_cancel _ hpos]
    simp [BitVec.ofNat_add]
  · have hinside : s.px.toNat + 1 < s.actWidth.toNat := by
      have hne : s.px.toNat + 1 ≠ s.actWidth.toNat := fun h => hwrap (BitVec.eq_of_toNat_eq (hnext.trans h))
      omega
    have hcolumn : (s.linear + 1) % s.actWidth.toNat = s.px.toNat + 1 := by
      rw [State.linear, Nat.add_assoc, Nat.mul_add_mod', Nat.mod_eq_of_lt hinside]
    have hrow : (s.linear + 1) / s.actWidth.toNat = s.py.toNat := by
      rw [State.linear, Nat.add_assoc, Nat.add_comm, Nat.add_mul_div_right _ _ (Nat.zero_lt_of_lt hp),
        Nat.div_eq_of_lt hinside, Nat.zero_add]
    rw [State.advanceOne, if_neg hwrap, State.advance, hcolumn, hrow]
    simp [BitVec.ofNat_add]

/-- The column stays below the width (R46, R102). -/
theorem advance_column_lt {s : State} (n : Nat) (hp : s.px.toNat < s.actWidth.toNat) :
    (s.advance n).px.toNat < s.actWidth.toNat := by
  rw [State.advance_column n hp]
  exact Nat.mod_lt _ (Nat.zero_lt_of_lt hp)

/-- `advance(n)` is n of the source's single steps (R102). -/
theorem advance_eq_iterate (n : Nat) {s : State} (hp : s.px.toNat < s.actWidth.toNat) (hy : s.py.toNat + n < 2 ^ 32) :
    s.advance n = State.advanceOne^[n] s := by
  induction n with
  | zero => exact advance_zero hp
  | succ n ih =>
    have hy' : s.py.toNat + n < 2 ^ 32 := by omega
    rw [Function.iterate_succ_apply', ← ih hy', advanceOne_eq_advance (advance_column_lt n hp), advance_advance n 1 hp hy']

/-- Settles O19: `advance_eq_iterate`, with where the cursor ends from `State.advance_column` and `State.advance_row`. -/
theorem advanceIsRepeatedSingleSteps : Obligations.AdvanceIsRepeatedSingleSteps := by
  intro n s hp hy
  exact ⟨advance_eq_iterate n hp hy, advance_zero hp, State.advance_column n hp, State.advance_row n hp hy⟩

/-! ## START -/

/-- START on an idle VPDEC with a valid configuration and frame size begins the decode (R99). -/
theorem start_accepted {s : State} (hvalid : s.cfgValid = true) (hsize : fsErrOf s.bufferMax s.frameSize.toNat = .none) :
    s.start = s.beginDecode := by
  rw [State.start, if_pos hvalid, hsize]

/-- Settles O22: `fsErrOf_eq_none` says that START accepts this frame size, and then it is `beginDecode`. -/
theorem startBeginsDecode : Obligations.StartBeginsDecode := by
  intro ig s hidle hvalid hpos heven hfits
  have hsize : fsErrOf s.bufferMax s.frameSize.toNat = .none := fsErrOf_eq_none.mpr ⟨hpos, heven, hfits⟩
  rw [exec, execStart, State.hostWrite_idle s _ hidle, start_accepted hvalid hsize, State.beginDecode]

end Sys2Proof.Proofs

/-! # A host operation while BUSY, and the recorded run as the engine sees it (R64, R82, R115)

Whatever the host does while BUSY, the engine's view of the state stays, so the recorded run takes the engine's steps one
after another with host operations between them. -/

namespace Sys2Proof.Proofs

open Sys2Proof.Machine

/-! ## Every transaction decodes to a well-formed bus operation (R75, R76) -/

theorem decodeRegRead_wf (bufMax : Nat) (r : Reg) :
    (decodeRegRead r).wf bufMax = true ∧ (decodeRegRead r).isBus = true := by
  cases r <;> exact ⟨rfl, rfl⟩

theorem decodeRegWrite_wf (bufMax : Nat) (r : Reg) (data : Word) :
    (decodeRegWrite r data).wf bufMax = true ∧ (decodeRegWrite r data).isBus = true := by
  cases r
  case ctrl =>
    obtain h | h | h | h := Laws.decodeCommand_cases data <;> rw [decodeRegWrite, h] <;> exact ⟨rfl, rfl⟩
  all_goals exact ⟨rfl, rfl⟩

theorem decodeWordAccess_wf (bufMax : Nat) (dir : Dir) (off : Half) (data : Word) :
    (decodeWordAccess dir off data).wf bufMax = true ∧ (decodeWordAccess dir off data).isBus = true := by
  unfold decodeWordAccess
  split_ifs with hhigh hmisaligned hregister hpalette
  · exact ⟨decide_eq_true hhigh, rfl⟩
  · simp [Instr.wf, Instr.isBus, Nat.lt_of_not_le hhigh, hmisaligned]
  · cases dir
    · exact decodeRegRead_wf bufMax _
    · exact decodeRegWrite_wf bufMax _ data
  · cases dir <;> exact ⟨rfl, rfl⟩
  · have haligned : off.toNat % 4 = 0 := not_not.mp hmisaligned
    cases dir <;> simp [Instr.wf, Instr.isBus, Nat.lt_of_not_le hhigh, Nat.le_of_not_lt hpalette, haligned]

theorem decodeByteAccess_wf (bufMax : Nat) (dir : Dir) (off : Half) (data : Word) :
    (decodeByteAccess bufMax dir off data).wf bufMax = true ∧ (decodeByteAccess bufMax dir off data).isBus = true := by
  unfold decodeByteAccess
  dsimp only
  split_ifs with hlow hinside
  · exact ⟨decide_eq_true hlow, rfl⟩
  · cases dir <;> exact ⟨decide_eq_true hinside, rfl⟩
  · have hindex := Laws.window_index off (Nat.le_of_not_lt hlow)
    have hreserved : 0x8000 + bufMax ≤ off.toNat := by omega
    cases dir <;> exact ⟨decide_eq_true hreserved, rfl⟩

theorem decodeTxn_wf (bufMax : Nat) (t : Txn) :
    (decodeTxn bufMax t).wf bufMax = true ∧ (decodeTxn bufMax t).isBus = true := by
  unfold decodeTxn
  split
  · exact decodeByteAccess_wf bufMax t.dir t.off t.data
  · exact ⟨rfl, rfl⟩
  · exact decodeWordAccess_wf bufMax t.dir t.off t.data
  · exact ⟨rfl, rfl⟩

/-- Every host transaction has one of the effects of `HostEffect`. -/
theorem exec_decodeTxn_effect {x : Txn} {s t : State} (h : exec (decodeTxn s.bufferMax x) s = .next t) :
    HostEffect s t :=
  exec_host_effect (decodeTxn_wf s.bufferMax x).2 (decodeTxn_wf s.bufferMax x).1 h

/-- No instruction is refused: every arm of `exec` has a meaning. -/
theorem exec_ne_refused (i : Instr) (s : State) (r : Refusal) : exec i s ≠ .refused r := by
  intro h
  cases i
  case rdPal i =>
    simp only [exec, execRdPal] at h
    split at h
    · split at h <;> cases h
    · cases h
  case rdbBuf j =>
    simp only [exec, execRdbBuf] at h
    split at h <;> cases h
  all_goals cases h

/-! ## BUSY is in the engine's view -/

@[simp] theorem engineView_busy (s : State) : s.engineView.busy = s.busy := rfl

theorem busy_of_engineView {s r : State} (hview : r.engineView = s.engineView) (hbusy : s.busy = true) :
    r.busy = true := by
  rw [← engineView_busy, hview, engineView_busy, hbusy]

/-! ## What a host operation leaves alone while BUSY -/

/-- A host operation while BUSY leaves the engine's view and what is pending as they are (R64, R82). -/
theorem hostEffect_busy {s t : State} (h : HostEffect s t) (hbusy : s.busy = true) :
    t.engineView = s.engineView ∧ t.pending = s.pending := by
  cases h
  case same => exact ⟨rfl, rfl⟩
  case reply r => exact ⟨rfl, rfl⟩
  case drop => exact ⟨rfl, rfl⟩
  case clear => exact ⟨rfl, rfl⟩
  all_goals cases hbusy.symm.trans ‹s.busy = false›

/-- A host transaction while BUSY leaves BUSY as it is (R82). -/
theorem exec_decodeTxn_busy {x : Txn} {s t : State} (h : exec (decodeTxn s.bufferMax x) s = .next t)
    (hbusy : s.busy = true) : t.busy = true :=
  busy_of_engineView (hostEffect_busy (exec_decodeTxn_effect h) hbusy).1 hbusy

/-- FETCH and PAINT leave BUSY as it is, so an engine step that ends the decode is END or CLAMP (R103 to R109). -/
theorem engineStep_stops {s t : State} (h : engineStep s = .next t) (hbusy : s.busy = true) (hidle : t.busy = false) :
    t.done = true ∧ (t.result = .endOfPayload ∨ t.result = .clamp) := by
  obtain ⟨hb, -⟩ | ⟨-, -, -, rfl⟩ | ⟨-, -, -, hfetch⟩ | ⟨-, -, -, rfl⟩ | ⟨-, -, -, hpaint⟩ := engineStep_cases h
  · cases hbusy.symm.trans hb
  · exact ⟨rfl, .inl rfl⟩
  · obtain ⟨c, i, -, -, ⟨-, rfl⟩ | ⟨-, rfl⟩⟩ := engineFetch_cases hfetch <;> cases hbusy.symm.trans hidle
  · exact ⟨rfl, .inr rfl⟩
  · obtain ⟨c, -, rfl⟩ := enginePaint_cases hpaint
    cases hbusy.symm.trans hidle

/-- Settles O46: a host transaction keeps BUSY (`exec_decodeTxn_busy`), POLL, the confirmation and another agent's write do
not touch it, and of the engine's steps only `finish` does (`engineStep_stops`). -/
theorem onlyFinishOrResetStopsDecode : Obligations.OnlyFinishOrResetStopsDecode := by
  intro s t hbusy hstep hidle
  obtain ⟨hp, h⟩ | ⟨rest, hp, h⟩ | ⟨x, rest, -, h⟩ | ⟨rest, -, rfl⟩ | ⟨rest, hp, -⟩ | ⟨x, y, c, rest, -, rfl⟩ |
    ⟨rest, -, rfl⟩ := step_cases hstep
  case inl =>
    obtain ⟨hdone, hresult⟩ := engineStep_stops h hbusy hidle
    exact .inr ⟨hdone, hresult, .inl hp⟩
  case inr.inl =>
    obtain ⟨hdone, hresult⟩ := engineStep_stops h hbusy hidle
    exact .inr ⟨hdone, hresult, .inr (congrArg List.head? hp)⟩
  case inr.inr.inl => cases (exec_decodeTxn_busy (s := { s with pending := rest }) h hbusy).symm.trans hidle
  case inr.inr.inr.inl => cases hbusy.symm.trans hidle
  case inr.inr.inr.inr.inl => exact .inl (congrArg List.head? hp)
  case inr.inr.inr.inr.inr.inl => split at hidle <;> cases hbusy.symm.trans hidle
  case inr.inr.inr.inr.inr.inr => cases hbusy.symm.trans hidle

end Sys2Proof.Proofs

/-! # The recorded run takes the engine's steps (R61, R64, R157)

Seen through `engineView`, a recorded run from a busy state with no RST and no other agent's write pending is the engine's
own run: host operations come between its steps and change nothing in the view. -/

namespace Sys2Proof.Proofs

open Sys2Proof.Machine

/-! ## The engine's step depends on its view alone -/

/-- `s` with the surroundings of `r`: what is in the state but not in the engine's view. -/
def around (s r : State) : State :=
  { s with wbusy := r.wbusy, reply := r.reply, faults := r.faults, pending := r.pending }

/-- A state is known by its view and its surroundings. -/
theorem eq_around_of_engineView {s r : State} (h : r.engineView = s.engineView) : r = around s r :=
  calc r = around r.engineView r := rfl
    _ = around s.engineView r := by rw [h]
    _ = around s r := rfl

/-- The engine's step neither sees nor changes the surroundings. -/
theorem engineStep_around {s u : State} (h : engineStep s = .next u) (r : State) :
    engineStep (around s r) = .next (around u r) := by
  obtain ⟨hidle, rfl⟩ | ⟨hbusy, hrem, hrp, rfl⟩ | ⟨hbusy, hrem, hrp, hfetch⟩ | ⟨hbusy, hrem, hrow, rfl⟩ |
    ⟨hbusy, hrem, hrow, hpaint⟩ := engineStep_cases h
  · exact engineStep_idle hidle
  · exact engineStep_end (s := around s r) hbusy hrem hrp
  · rw [engineStep_fetch (s := around s r) hbusy hrem hrp]
    obtain ⟨c, i, hc, hi, ⟨hlt, rfl⟩ | ⟨hle, rfl⟩⟩ := engineFetch_cases hfetch
    · exact engineFetch_run (s := around s r) hc hi hlt
    · exact engineFetch_skip (s := around s r) hc hi hle
  · exact engineStep_clamp (s := around s r) hbusy hrem hrow
  · rw [engineStep_paint (s := around s r) hbusy hrem hrow]
    obtain ⟨c, hpal, rfl⟩ := enginePaint_cases hpaint
    exact enginePaint_written (s := around s r) hpal

/-- States with the same view take the same engine step. -/
theorem engineStep_of_engineView {s r u : State} (hview : r.engineView = s.engineView) (h : engineStep s = .next u) :
    engineStep r = .next (around u r) := by
  rw [eq_around_of_engineView hview]
  exact engineStep_around h r

/-! ## Steps of a recorded run -/

theorem recordStep_next {s t : State} (h : step s = .next t) : recordStep s = t := by
  rw [recordStep, h]

theorem recordRun_add (m n : Nat) (s : State) : recordRun (m + n) s = recordRun n (recordRun m s) := by
  induction m generalizing s with
  | zero => rw [Nat.zero_add]; rfl
  | succ m ih => rw [Nat.succ_add]; exact ih (recordStep s)

/-- A step of the host's while BUSY, a transaction or the confirmation: the view stays, and nothing new is pending. -/
theorem recordStep_host {s : State} {e : Event} {rest : List Event} (hbusy : s.busy = true)
    (hp : s.pending = e :: rest) (he : (∃ x, e = .host x) ∨ e = .confirm) :
    (recordStep s).engineView = s.engineView ∧ (recordStep s).pending.Sublist rest := by
  obtain ⟨x, rfl⟩ | rfl := he
  · have hstep := step_cons hp
    obtain ⟨t, ht, hrecord⟩ | ⟨f, -, hrecord⟩ | ⟨r, hr, -⟩ := recordStep_cases s
    · obtain ⟨hview, hpending⟩ := hostEffect_busy (s := { s with pending := rest })
        (exec_decodeTxn_effect (hstep.symm.trans ht)) hbusy
      rw [hrecord, hpending]
      exact ⟨hview, List.Sublist.refl rest⟩
    · rw [hrecord, State.record_pending, State.passMove_pending, hp]
      exact ⟨rfl, List.Sublist.refl rest⟩
    · exact absurd (hstep.symm.trans hr) (exec_ne_refused _ _ r)
  · have hstep : step s = .next ((if s.cfgValid then { s with pending := rest }
        else ({ s with pending := rest } : State).stopHost).answer _) := step_cons hp
    rw [recordStep_next hstep]
    split
    · exact ⟨rfl, List.Sublist.refl rest⟩
    · exact ⟨rfl, List.filter_sublist⟩

/-- POLL while BUSY: the view stays, and the engine has the turn (log 8). -/
theorem recordStep_poll {s : State} {rest : List Event} (hbusy : s.busy = true) (hp : s.pending = .poll :: rest) :
    (recordStep s).engineView = s.engineView ∧ (recordStep s).pending = .engine :: .poll :: rest := by
  have hstep : step s = .next ((if s.busy then { s with pending := .engine :: .poll :: rest }
      else { s with pending := rest } : State).answer _) := step_cons hp
  rw [recordStep_next hstep, if_pos hbusy]
  exact ⟨rfl, rfl⟩

/-- The engine's turn with what is pending after it. -/
theorem recordStep_engine {s u : State} {rest : List Event} (hp : s.pending = .engine :: rest)
    (h : engineStep s = .next u) :
    (recordStep s).engineView = u.engineView ∧ (recordStep s).pending = rest := by
  have hstep : step s = .next (around u { s with pending := rest }) :=
    (step_cons hp).trans (engineStep_around h { s with pending := rest })
  rw [recordStep_next hstep]
  exact ⟨rfl, rfl⟩

/-- The engine's turn when nothing is pending. -/
theorem recordStep_nil {s u : State} (hp : s.pending = []) (h : engineStep s = .next u) :
    (recordStep s).engineView = u.engineView ∧ (recordStep s).pending = [] := by
  have hstep : step s = .next (around u s) := (step_nil hp).trans (engineStep_around h s)
  rw [recordStep_next hstep]
  exact ⟨rfl, hp⟩

/-- Nothing but the engine and the host's own operations is pending (R152). -/
def PictureLeft (s : State) : Prop := ∀ e ∈ s.pending, e.leavesPicture = true

theorem pictureLeft_of_sublist {s t : State} (h : PictureLeft s) (hsub : t.pending.Sublist s.pending) : PictureLeft t :=
  fun e he => h e (hsub.subset he)

/-- However many host operations come first, the recorded run comes to the engine's next step: by induction on how much is
pending. A transaction or a confirmation leaves less; at POLL and at the engine's turn the engine's step is due. -/
theorem recordRun_engineStep {s u : State} (hbusy : s.busy = true) (hleft : PictureLeft s) (h : engineStep s = .next u) :
    ∃ n, (recordRun n s).engineView = u.engineView ∧ PictureLeft (recordRun n s) := by
  induction hlen : s.pending.length using Nat.strong_induction_on generalizing s u with
  | _ len ih =>
    match hp : s.pending with
    | [] =>
      obtain ⟨hview, hpending⟩ := recordStep_nil hp h
      exact ⟨1, hview, pictureLeft_of_sublist hleft (by simp [recordRun, hpending])⟩
    | e :: rest =>
      have hrest : rest.Sublist s.pending := hp ▸ List.sublist_cons_self e rest
      have host (he : (∃ x, e = .host x) ∨ e = .confirm) :
          ∃ n, (recordRun n s).engineView = u.engineView ∧ PictureLeft (recordRun n s) := by
        obtain ⟨hview, hsub⟩ := recordStep_host hbusy hp he
        have hshorter : (recordStep s).pending.length < len := by
          have hle := hsub.length_le
          rw [hp, List.length_cons] at hlen
          omega
        obtain ⟨n, hn⟩ := ih _ hshorter (busy_of_engineView hview hbusy)
          (pictureLeft_of_sublist hleft (hsub.trans hrest)) (engineStep_of_engineView hview h) rfl
        exact ⟨n + 1, hn⟩
      cases e with
      | host x => exact host (.inl ⟨x, rfl⟩)
      | confirm => exact host (.inr rfl)
      | engine =>
        obtain ⟨hview, hpending⟩ := recordStep_engine hp h
        exact ⟨1, hview, pictureLeft_of_sublist hleft (by simpa [recordRun, hpending] using hrest)⟩
      | poll =>
        obtain ⟨hpoll, hturn⟩ := recordStep_poll hbusy hp
        obtain ⟨hview, hpending⟩ := recordStep_engine hturn (engineStep_of_engineView hpoll h)
        exact ⟨2, hview, pictureLeft_of_sublist hleft (by simp [recordRun, hpending, hp])⟩
      | reset => cases hleft .reset (by simp [hp])
      | display x y c => cases hleft (.display x y c) (by simp [hp])

/-! ## The engine's run -/

/-- `t` is what some number of engine steps, each taken while BUSY, make of `s` (R100). -/
def EngineReaches : State → State → Prop :=
  Relation.ReflTransGen fun a b => a.busy = true ∧ engineStep a = .next b

/-- What the engine reaches, the recorded run reaches in its view, whatever host operations are pending (R61, R64). -/
theorem recordRun_of_engineReaches {s t : State} (hleft : PictureLeft s) (h : EngineReaches s t) :
    ∃ n, (recordRun n s).engineView = t.engineView ∧ PictureLeft (recordRun n s) := by
  induction h with
  | refl => exact ⟨0, rfl, hleft⟩
  | tail _ hstep ih =>
    obtain ⟨m, hview, hleft'⟩ := ih
    obtain ⟨n, hn⟩ := recordRun_engineStep (busy_of_engineView hview hstep.1) hleft'
      (engineStep_of_engineView hview hstep.2)
    exact ⟨m + n, by rw [recordRun_add]; exact hn⟩

end Sys2Proof.Proofs

/-! # A payload that covers the canvas exactly (R112)

The engine draws the pixel stream of the payload onto the canvas in raster order: `Drawn` says how far it has come, each
PAINT draws one more index of the stream, and at the end of the stream the canvas is full. -/

namespace Sys2Proof.Proofs

open Sys2Proof.Machine

/-! ## The blocks of the canvas (R122, R125) -/

/-- The cells of one axis do not overlap. -/
theorem cell_unique {off n a b v : Nat} (ha : off + a * n ≤ v) (ha' : v < off + a * n + n) (hb : off + b * n ≤ v)
    (hb' : v < off + b * n + n) : a = b := by
  have hab : ¬a < b := fun hlt => by
    have hle : (a + 1) * n ≤ b * n := Nat.mul_le_mul_right n hlt
    rw [Nat.succ_mul] at hle
    omega
  have hba : ¬b < a := fun hlt => by
    have hle : (b + 1) * n ≤ a * n := Nat.mul_le_mul_right n hlt
    rw [Nat.succ_mul] at hle
    omega
  omega

/-- A framebuffer pixel lies in the block of one logical pixel only (R125). -/
theorem inBlock_unique {s : State} {px py px' py' x y : Nat} (h : InBlock s px py x y) (h' : InBlock s px' py' x y) :
    px = px' ∧ py = py' := by
  obtain ⟨hx, hx', hy, hy'⟩ := h
  obtain ⟨hu, hu', hv, hv'⟩ := h'
  exact ⟨cell_unique hx hx' hu hu', cell_unique hy hy' hv hv'⟩

/-- The end of a cell lies within the cells of the whole axis. -/
theorem cell_end_le {a w : Nat} (n : Nat) (h : a < w) : a * n + n ≤ w * n := by
  rw [← Nat.succ_mul]
  exact Nat.mul_le_mul_right n h

/-- The blocks of the canvas lie in the image (R125). -/
theorem inImage_of_inBlock {s : State} {px py x y : Nat} (hpx : px < s.actWidth.toNat) (hpy : py < s.actHeight.toNat)
    (h : InBlock s px py x y) : InImage s x y := by
  obtain ⟨hx, hx', hy, hy'⟩ := h
  have hcolumns := cell_end_le s.scale.toNat hpx
  have hrows := cell_end_le s.scale.toNat hpy
  simp only [blockX, blockY] at hx hx' hy hy'
  exact ⟨by omega, by omega, by omega, by omega⟩

/-- The image of a committed configuration lies within the framebuffer's columns (R120 (e)). -/
theorem image_fits_columns {s : State} (hconfig : s.ConfigOk) (hvalid : s.cfgValid = true) :
    s.xoff.toNat + s.actWidth.toNat * s.scale.toNat ≤ s.fbW := by
  obtain ⟨hpos, hle⟩ := hconfig.width hvalid
  rw [hconfig.xoff hvalid]
  apply geoXoff_add
  rw [hconfig.scale hvalid]
  exact geoScale_mul_width s.fbH s.actHeight.toNat hpos hle

/-! ## What a decode reads and does not change (R48) -/

/-- All of a state but the cursor, the run in progress and the framebuffer. -/
def decodeInputs (s : State) : State :=
  { s with px := 0, py := 0, rp := 0, rem := 0, cidx := 0, fb := [] }

section Kept

variable (s : State)

@[simp] theorem decodeInputs_blit (x y : Nat) (c : Half) : decodeInputs (s.blit x y c) = decodeInputs s := rfl
@[simp] theorem decodeInputs_advance (n : Nat) : decodeInputs (s.advance n) = decodeInputs s := rfl
@[simp] theorem decodeInputs_countPixel : decodeInputs s.countPixel = decodeInputs s := rfl
@[simp] theorem decodeInputs_passRun : decodeInputs s.passRun = decodeInputs s := rfl
@[simp] theorem decodeInputs_loadRun (c i : Byte) : decodeInputs (s.loadRun c i) = decodeInputs s := rfl

end Kept

theorem inBlock_congr {s t : State} (h : decodeInputs t = decodeInputs s) (px py x y : Nat) :
    InBlock t px py x y ↔ InBlock s px py x y := by
  change InBlock (decodeInputs t) px py x y ↔ InBlock (decodeInputs s) px py x y
  rw [h]

/-- What PAINT needs of what a decode reads: BUSY, an image within the framebuffer's columns, and the colours in the
palette (R108, R124). -/
def PaintReady (colour : Byte → Half) (s : State) : Prop :=
  s.busy = true ∧ s.xoff.toNat + s.actWidth.toNat * s.scale.toNat ≤ s.fbW ∧
    ∀ i : Byte, i.toNat < s.actPalSize.toNat → Memory.read s.pal i.toNat = some (colour i)

theorem PaintReady.congr {colour : Byte → Half} {s t : State} (hinputs : decodeInputs t = decodeInputs s)
    (h : PaintReady colour s) : PaintReady colour t := by
  change PaintReady colour (decodeInputs t)
  rw [hinputs]
  exact h

/-- The blocks of the canvas's columns end within the framebuffer's columns (R124). -/
theorem PaintReady.block_fits {colour : Byte → Half} {s : State} (h : PaintReady colour s) {px : Nat}
    (hpx : px < s.actWidth.toNat) : blockX s px + s.scale.toNat ≤ s.fbW := by
  obtain ⟨-, hfits, -⟩ := h
  have hend := cell_end_le s.scale.toNat hpx
  simp only [blockX]
  omega

/-! ## How far a decode has drawn -/

/-- `t` is the decode that began in `s`, with the indexes `drawn` painted in raster order from the first logical pixel on,
and nothing painted outside the image. -/
structure Drawn (s : State) (colour : Byte → Half) (drawn : List Byte) (t : State) : Prop where
  inputs : decodeInputs t = decodeInputs s
  stored : Memory.wf t.fb
  column : t.px.toNat < t.actWidth.toNat
  position : t.linear = drawn.length
  painted : ∀ x y i, x < s.actWidth.toNat → drawn[pixelIndex s.actWidth.toNat x y]? = some i →
    ∀ fx fy, InBlock s x y fx fy → t.pixel fx fy = colour i
  outside : ∀ fx fy, fx < s.fbW → ¬InImage s fx fy → t.pixel fx fy = s.pixel fx fy

section Decode

variable {s t : State} {colour : Byte → Half} {drawn : List Byte}

theorem Drawn.actWidth (h : Drawn s colour drawn t) : t.actWidth = s.actWidth := (congrArg State.actWidth h.inputs :)
theorem Drawn.actHeight (h : Drawn s colour drawn t) : t.actHeight = s.actHeight := (congrArg State.actHeight h.inputs :)
theorem Drawn.actPalSize (h : Drawn s colour drawn t) : t.actPalSize = s.actPalSize := (congrArg State.actPalSize h.inputs :)
theorem Drawn.frameSize (h : Drawn s colour drawn t) : t.frameSize = s.frameSize := (congrArg State.frameSize h.inputs :)
theorem Drawn.fbW (h : Drawn s colour drawn t) : t.fbW = s.fbW := (congrArg State.fbW h.inputs :)
theorem Drawn.buf (h : Drawn s colour drawn t) : t.buf = s.buf := (congrArg State.buf h.inputs :)

/-! ## PAINT draws one index -/

/-- The cursor stands where the next index of the stream belongs. -/
theorem Drawn.cursor (h : Drawn s colour drawn t) :
    pixelIndex s.actWidth.toNat t.px.toNat t.py.toNat = drawn.length := by
  rw [← h.position, ← h.actWidth, State.linear, pixelIndex]

/-- A logical pixel that the cursor stands on is the next one. -/
theorem Drawn.eq_cursor (h : Drawn s colour drawn t) {x y : Nat} (hx : x < s.actWidth.toNat)
    (hxy : pixelIndex s.actWidth.toNat x y = drawn.length) : x = t.px.toNat ∧ y = t.py.toNat :=
  pixelIndex_inj hx (h.actWidth ▸ h.column) (hxy.trans h.cursor.symm)

/-- While there is room on the canvas, the cursor is on one of its rows (R46). -/
theorem Drawn.row_lt (h : Drawn s colour drawn t) (hroom : drawn.length < s.actWidth.toNat * s.actHeight.toNat) :
    t.py.toNat < s.actHeight.toNat := by
  rw [← h.cursor, Nat.mul_comm] at hroom
  exact Nat.lt_of_mul_lt_mul_right (Nat.lt_of_le_of_lt (Nat.le_add_right _ _) hroom)

/-- Where a PAINT leaves the framebuffer: the block of the cursor takes the colour (R108, R122). -/
theorem Drawn.paint_pixel (h : Drawn s colour drawn t) (hready : PaintReady colour s) (c : Half) {fx : Nat} (fy : Nat)
    (hfx : fx < s.fbW) :
    ((t.blit t.px.toNat t.py.toNat c).advance 1).countPixel.pixel fx fy =
      if InBlock s t.px.toNat t.py.toNat fx fy then c else t.pixel fx fy := by
  have hcolumns : blockX t t.px.toNat + t.scale.toNat ≤ t.fbW := (hready.congr h.inputs).block_fits h.column
  rw [← h.fbW] at hfx
  exact (State.blit_pixel t h.stored t.px.toNat t.py.toNat c hcolumns fx fy hfx).trans
    (if_congr (inBlock_congr h.inputs ..) rfl rfl)

/-- PAINT inside the canvas draws the run's index at the cursor (R108). -/
theorem Drawn.paint (h : Drawn s colour drawn t) (hready : PaintReady colour s)
    (hroom : drawn.length < s.actWidth.toNat * s.actHeight.toNat) (i : Byte) :
    Drawn s colour (drawn ++ [i]) ((t.blit t.px.toNat t.py.toNat (colour i)).advance 1).countPixel where
  inputs := by simp [h.inputs]
  stored := paintBlock_wf h.stored _ _ _ _ _
  column := advance_column_lt (s := t.blit t.px.toNat t.py.toNat (colour i)) 1 h.column
  position := by
    have hrow := h.row_lt hroom
    have hheight := s.actHeight.isLt
    have hlinear := State.advance_linear (s := t.blit t.px.toNat t.py.toNat (colour i)) 1 h.column (by simp; omega)
    rw [State.linear_countPixel, hlinear, State.linear_blit, h.position, List.length_append, List.length_singleton]
  painted x y j hx hj fx fy hin := by
    have hfx : fx < s.fbW := Nat.lt_of_lt_of_le hin.2.1 (hready.block_fits hx)
    rw [h.paint_pixel hready (colour i) fy hfx]
    by_cases hold : pixelIndex s.actWidth.toNat x y < drawn.length
    · have hnot : ¬InBlock s t.px.toNat t.py.toNat fx fy := fun hcursor => by
        obtain ⟨rfl, rfl⟩ := inBlock_unique hin hcursor
        exact absurd h.cursor (Nat.ne_of_lt hold)
      rw [if_neg hnot]
      rw [List.getElem?_append_left hold] at hj
      exact h.painted x y j hx hj fx fy hin
    · have hnext : pixelIndex s.actWidth.toNat x y = drawn.length := by
        have hlt := (List.getElem?_eq_some_iff.mp hj).1
        rw [List.length_append, List.length_singleton] at hlt
        omega
      obtain ⟨rfl, rfl⟩ := h.eq_cursor hx hnext
      rw [hnext, List.getElem?_concat_length, Option.some.injEq] at hj
      rw [if_pos hin, hj]
  outside fx fy hfx hout := by
    have hpx : t.px.toNat < s.actWidth.toNat := h.actWidth ▸ h.column
    have hnot : ¬InBlock s t.px.toNat t.py.toNat fx fy := fun hin => hout (inImage_of_inBlock hpx (h.row_lt hroom) hin)
    rw [h.paint_pixel hready (colour i) fy hfx, if_neg hnot]
    exact h.outside fx fy hfx hout

end Decode

/-! ## A run and a payload draw their stream -/

theorem engineReaches_head {s t u : State} (hbusy : s.busy = true) (hstep : engineStep s = .next t)
    (h : EngineReaches t u) : EngineReaches s u :=
  Relation.ReflTransGen.head ⟨hbusy, hstep⟩ h

/-- `REM` counts down to the number of pixels left (R108). -/
theorem rem_countDown {rem : Byte} {n : Nat} (h : rem.toNat = n + 1) : rem ≠ 0 ∧ (rem - 1).toNat = n := by
  refine ⟨fun hzero => ?_, ?_⟩
  · rw [hzero] at h
    cases h
  · rw [BitVec.toNat_sub_of_le (BitVec.le_def.mpr (by simp [h])), h]
    rfl

section Decode

variable {s : State} {colour : Byte → Half}

/-- The PAINT steps of a RUN draw as many copies of its index as it has pixels left (R106, R108). -/
theorem Drawn.paint_run (hready : PaintReady colour s) {i : Byte} (hi : i.toNat < s.actPalSize.toNat) (n : Nat) {t : State}
    {drawn : List Byte} (h : Drawn s colour drawn t) (hrem : t.rem.toNat = n) (hcidx : t.rem ≠ 0 → t.cidx = i)
    (hroom : drawn.length + n ≤ s.actWidth.toNat * s.actHeight.toNat) :
    ∃ u, EngineReaches t u ∧ Drawn s colour (drawn ++ List.replicate n i) u ∧ u.rem = 0 ∧ u.rp = t.rp := by
  induction n generalizing t drawn with
  | zero =>
    refine ⟨t, .refl, ?_, BitVec.eq_of_toNat_eq hrem, rfl⟩
    rwa [List.replicate_zero, List.append_nil]
  | succ n ih =>
    obtain ⟨hne, hleft⟩ := rem_countDown hrem
    obtain ⟨hbusy, -, hpal⟩ := hready.congr h.inputs
    have hlt : drawn.length < s.actWidth.toNat * s.actHeight.toNat := by omega
    have hrow : t.py.toNat < t.actHeight.toNat := h.actHeight ▸ h.row_lt hlt
    have hread : Memory.read t.pal t.cidx.toNat = some (colour i) := by
      rw [hcidx hne]
      exact hpal i (h.actPalSize ▸ hi)
    have hstep := (engineStep_paint hbusy hne hrow).trans (enginePaint_written hread)
    obtain ⟨u, hreach, hdrawn, hdone, hrp⟩ := ih (h.paint hready hlt i) hleft (fun _ => hcidx hne)
      (by rw [List.length_append, List.length_singleton]; omega)
    refine ⟨u, engineReaches_head hbusy hstep hreach, ?_, hdone, hrp⟩
    rwa [List.append_assoc, List.singleton_append, ← List.replicate_succ] at hdrawn

/-- `runs` is the part of the payload from RP on: whole runs, all of them RUNs, up to FRAME_SIZE (R105, R112). -/
structure Ahead (s : State) (rp : Word) (runs : List Byte) : Prop where
  toEnd : rp.toNat + runs.length = s.frameSize.toNat
  even : runs.length % 2 = 0
  bytes : ∀ j, j < runs.length → Memory.read s.buf (rp.toNat + j) = runs[j]?
  below : everyRunBelow s.actPalSize.toNat runs = true

/-- After FETCH the rest of the payload lies ahead (R105). -/
theorem Ahead.next {rp : Word} {c i : Byte} {rest : List Byte} (h : Ahead s rp (c :: i :: rest)) :
    i.toNat < s.actPalSize.toNat ∧ Ahead s (rp + 2) rest := by
  obtain ⟨hend, heven, hbytes, hbelow⟩ := h
  simp only [List.length_cons] at hend heven hbytes
  simp only [everyRunBelow, Bool.and_eq_true, decide_eq_true_eq] at hbelow
  have hrp : (rp + 2).toNat = rp.toNat + 2 := by
    have hframe := s.frameSize.isLt
    rw [BitVec.toNat_add, show (2 : Word).toNat = 2 from rfl, Nat.mod_eq_of_lt (by omega)]
  refine ⟨hbelow.1, by omega, by omega, fun j hj => ?_, hbelow.2⟩
  rw [hrp, Nat.add_assoc, Nat.add_comm 2 j, hbytes (j + 2) (by omega)]
  rfl

/-- FETCH of the RUN ahead draws nothing and loads the run (R105, R106). -/
theorem Drawn.fetch {t : State} {drawn : List Byte} {c i : Byte} {rest : List Byte} (h : Drawn s colour drawn t)
    (hbusy : t.busy = true) (hrem : t.rem = 0) (hahead : Ahead s t.rp (c :: i :: rest)) :
    engineStep t = .next (t.passRun.loadRun c i) ∧ Drawn s colour drawn (t.passRun.loadRun c i) := by
  have hend := hahead.toEnd
  have hrp : t.rp ≠ t.frameSize := fun heq => by
    rw [heq, h.frameSize, List.length_cons] at hend
    omega
  have hc : Memory.read t.buf t.rp.toNat = some c := by
    rw [h.buf]
    exact hahead.bytes 0 (by simp)
  have hi : Memory.read t.buf (t.rp.toNat + 1) = some i := by
    rw [h.buf]
    exact hahead.bytes 1 (by simp)
  have hlt : i.toNat < t.actPalSize.toNat := h.actPalSize ▸ hahead.next.1
  exact ⟨(engineStep_fetch hbusy hrem hrp).trans (engineFetch_run hc hi hlt),
    ⟨by simp [h.inputs], h.stored, h.column, h.position, h.painted, h.outside⟩⟩

/-- The engine draws the stream of the payload ahead, as long as the canvas has room for it (R112). -/
theorem Drawn.payload (hready : PaintReady colour s) : (runs : List Byte) → {t : State} → {drawn : List Byte} →
    Drawn s colour drawn t → t.rem = 0 → Ahead s t.rp runs →
    drawn.length + runLengthSum runs ≤ s.actWidth.toNat * s.actHeight.toNat →
    ∃ u, EngineReaches t u ∧ Drawn s colour (drawn ++ pixelStream runs) u ∧ u.rem = 0 ∧ u.rp = s.frameSize
  | [], t, drawn, h, hrem, hahead, _ =>
    ⟨t, .refl, by simpa [pixelStream] using h, hrem, BitVec.eq_of_toNat_eq hahead.toEnd⟩
  | [_], _, _, _, _, hahead, _ => absurd hahead.even (by simp)
  | c :: i :: rest, t, drawn, h, hrem, hahead, hroom => by
    obtain ⟨hi, hnext⟩ := hahead.next
    have hbusy : t.busy = true := (hready.congr h.inputs).1
    obtain ⟨hstep, hfetched⟩ := h.fetch hbusy hrem hahead
    rw [runLengthSum, ← Nat.add_assoc] at hroom
    obtain ⟨u, hrun, hdrawn, hdone, hrp⟩ := hfetched.paint_run hready hi c.toNat rfl (fun hne => if_neg hne)
      (Nat.le_of_add_right_le hroom)
    obtain ⟨v, hrest, hall⟩ := Drawn.payload hready rest hdrawn hdone (hrp ▸ hnext)
      (by rwa [List.length_append, List.length_replicate])
    rw [List.append_assoc] at hall
    exact ⟨v, (engineReaches_head hbusy hstep hrun).trans hrest, hall⟩

end Decode

/-! ## The whole decode -/

/-- The stream has as many indexes as the counts sum to (R112). -/
theorem length_pixelStream : (payload : List Byte) → (pixelStream payload).length = runLengthSum payload
  | [] => rfl
  | [_] => rfl
  | c :: i :: rest => by
    rw [pixelStream, runLengthSum, List.length_append, List.length_replicate, length_pixelStream rest]

/-- A decode that has just begun has drawn nothing (R99). -/
theorem drawn_of_decodeBegins {s : State} (colour : Byte → Half) (hinv : s.Inv) (hbegins : s.DecodeBegins) :
    Drawn s colour [] s where
  inputs := rfl
  stored := hinv.stores.fbRising
  column := (hinv.decode hbegins.busy).column
  position := by simp [State.linear, hbegins.column, hbegins.row]
  painted x y i _ hi := by cases hi
  outside _ _ _ _ := rfl

/-- When the whole canvas is drawn, the cursor is at `(0, H)` (R108). -/
theorem Drawn.cursor_of_full {s t : State} {colour : Byte → Half} {drawn : List Byte} (h : Drawn s colour drawn t)
    (hfull : drawn.length = s.actWidth.toNat * s.actHeight.toNat) :
    t.px.toNat = 0 ∧ t.py.toNat = s.actHeight.toNat := by
  have hpos : 0 < s.actWidth.toNat := Nat.zero_lt_of_lt (h.actWidth ▸ h.column)
  obtain ⟨hpx, hpy⟩ := h.eq_cursor hpos (y := s.actHeight.toNat) (by rw [pixelIndex, hfull, Nat.mul_comm, Nat.add_zero])
  exact ⟨hpx.symm, hpy.symm⟩

/-- The engine draws the whole stream of an exact payload and then takes the END step (R104, R112). -/
theorem engineReaches_end {s : State} {payload : List Byte} {colour : Byte → Half} (hready : PaintReady colour s)
    (hbegun : Drawn s colour [] s) (hrem : s.rem = 0) (hahead : Ahead s s.rp payload)
    (hsum : runLengthSum payload = s.actWidth.toNat * s.actHeight.toNat) :
    ∃ u, EngineReaches s (u.finish .endOfPayload) ∧ Drawn s colour (pixelStream payload) u ∧ u.rp = s.frameSize := by
  obtain ⟨u, hreach, hdrawn, hdone, hrp⟩ := hbegun.payload hready payload hrem hahead (by simp [hsum])
  have hstep := engineStep_end (hready.congr hdrawn.inputs).1 hdone (hrp.trans hdrawn.frameSize.symm)
  exact ⟨u, hreach.tail ⟨(hready.congr hdrawn.inputs).1, hstep⟩, hdrawn, hrp⟩

/-- Settles O56: the engine alone draws the stream and ends (`engineReaches_end`), and the recorded run comes to the same
view whatever host operations are pending (`recordRun_of_engineReaches`). -/
theorem exactPayloadReproducesCanvas : Obligations.ExactPayloadReproducesCanvas := by
  intro s payload colour hinv hbegins hleft hlength hbytes hpal hbelow hsum
  have hdecode := hinv.decode hbegins.busy
  have hready : PaintReady colour s := ⟨hbegins.busy, image_fits_columns hinv.config hdecode.configured, hpal⟩
  have hstart : s.rp.toNat = 0 := congrArg BitVec.toNat hbegins.pointer
  have hahead : Ahead s s.rp payload :=
    ⟨by rw [hstart, Nat.zero_add, hlength], hlength ▸ hdecode.frameEven,
      fun j hj => by rw [hstart, Nat.zero_add]; exact hbytes j hj, hbelow⟩
  obtain ⟨u, hreach, hdrawn, hrp⟩ := engineReaches_end hready (drawn_of_decodeBegins colour hinv hbegins) hbegins.noRun
    hahead hsum
  obtain ⟨n, hview, -⟩ := recordRun_of_engineReaches hleft hreach
  have hstream : (pixelStream payload).length = s.actWidth.toNat * s.actHeight.toNat :=
    (length_pixelStream payload).trans hsum
  have hpx : (recordRun n s).px = u.px := (congrArg State.px hview :)
  have hpy : (recordRun n s).py = u.py := (congrArg State.py hview :)
  have hpixel (fx fy : Nat) : (recordRun n s).pixel fx fy = u.pixel fx fy := (congrArg (State.pixel · fx fy) hview :)
  obtain ⟨hcolumn, hrow⟩ := hdrawn.cursor_of_full hstream
  refine ⟨n, recordRun n s, rfl, (congrArg State.busy hview :), (congrArg State.result hview :), hpx ▸ hcolumn,
    hpy ▸ hrow, (congrArg State.rp hview :).trans hrp, fun x y hx hy => ?_, fun fx fy hfx hout => ?_⟩
  · have hlt : pixelIndex s.actWidth.toNat x y < (pixelStream payload).length := hstream ▸ pixelIndex_lt hx hy
    refine ⟨(pixelStream payload)[pixelIndex s.actWidth.toNat x y], List.getElem?_eq_getElem hlt, fun fx fy hin => ?_⟩
    rw [hpixel]
    exact hdrawn.painted x y _ hx (List.getElem?_eq_getElem hlt) fx fy hin
  · rw [hpixel]
    exact hdrawn.outside fx fy hfx hout

end Sys2Proof.Proofs

/-! # The scale, the offsets and the block of a PAINT (42_blit.md)

Which scale COMMIT finds and how the scaled image lies in the framebuffer (R116 to R121), what COMMIT latches of it (R98),
and that a PAINT writes exactly its logical pixel's block, inside that image (R122 to R126). -/

namespace Sys2Proof.Proofs

open Sys2Proof.Machine

/-! ## The scale (R116) -/

section Scale

variable {fbW fbH w h : Nat}

/-- The outer `max` changes nothing for a canvas that fits the framebuffer (R116). -/
theorem geoScale_eq_min (hw : 1 ≤ w) (hwfit : w ≤ fbW) (hh : 1 ≤ h) (hhfit : h ≤ fbH) :
    geoScale fbW fbH w h = min (fbW / w) (fbH / h) :=
  max_eq_right (le_min (Nat.div_pos hwfit hw) (Nat.div_pos hhfit hh))

/-- A scale with which the image fits is at most the one COMMIT takes (R120 (a)). -/
theorem le_geoScale {k : Nat} (hw : 1 ≤ w) (hh : 1 ≤ h) (hcolumns : w * k ≤ fbW) (hrows : h * k ≤ fbH) :
    k ≤ geoScale fbW fbH w h := by
  have hquotients : k ≤ min (fbW / w) (fbH / h) :=
    le_min ((Nat.le_div_iff_mul_le hw).mpr (Nat.mul_comm w k ▸ hcolumns))
      ((Nat.le_div_iff_mul_le hh).mpr (Nat.mul_comm h k ▸ hrows))
  exact hquotients.trans (le_max_right _ _)

/-- The scale is at most the framebuffer's smaller side (R120 (b)). -/
theorem geoScale_le_min (hw : 1 ≤ w) (hwfit : w ≤ fbW) (hh : 1 ≤ h) (hhfit : h ≤ fbH) :
    geoScale fbW fbH w h ≤ min fbW fbH :=
  le_min ((Nat.le_mul_of_pos_left _ hw).trans (geoScale_mul_width fbH h hw hwfit))
    ((Nat.le_mul_of_pos_left _ hh).trans (geoScale_mul_height fbW w hh hhfit))

/-- A canvas as high as the framebuffer is not scaled (R120 (c)). -/
theorem geoScale_full_height (fbW w : Nat) (hfbH : 1 ≤ fbH) : geoScale fbW fbH w fbH = 1 := by
  rw [geoScale, Nat.div_self hfbH, max_eq_left (min_le_right _ _)]

/-- A canvas as wide as the framebuffer is not scaled (R120 (d)). -/
theorem geoScale_full_width (fbH h : Nat) (hfbW : 1 ≤ fbW) : geoScale fbW fbH fbW h = 1 := by
  rw [geoScale, Nat.div_self hfbW, max_eq_left (min_le_left _ _)]

/-- On the default framebuffer only the 1 x 1 canvas is scaled by 216 (R120 (b)). -/
theorem geoScale_default_eq_iff (hw : 1 ≤ w) (hwfit : w ≤ 384) (hh : 1 ≤ h) (hhfit : h ≤ 216) :
    geoScale 384 216 w h = 216 ↔ w = 1 ∧ h = 1 := by
  constructor
  · intro hscale
    have hcolumns := geoScale_mul_width 216 h hw hwfit
    have hrows := geoScale_mul_height 384 w hh hhfit
    rw [hscale] at hcolumns hrows
    omega
  · rintro ⟨rfl, rfl⟩
    decide

end Scale

/-! ## The offsets (R117, R118)

YOFF is on the rows what XOFF is on the columns, so each fact is proved of XOFF and read on the other axis. -/

theorem geoYoff_eq_geoXoff (fbH h s : Nat) : geoYoff fbH h s = geoXoff fbH h s := rfl

/-- An image of at least one pixel leaves at most half of the other pixels before it (R120 (c), (d)). -/
theorem geoXoff_le_half {side n s : Nat} (hn : 1 ≤ n) (hs : 1 ≤ s) : geoXoff side n s ≤ (side - 1) / 2 :=
  Nat.div_le_div_right (Nat.sub_le_sub_left (Nat.mul_pos hn hs) side)

/-- The margin after the image is the offset before it, with the odd pixel where there is one (R121). -/
theorem margin_after (side n s : Nat) :
    ((side - n * s) % 2 = 0 → side - geoXoff side n s - n * s = geoXoff side n s) ∧
    ((side - n * s) % 2 = 1 → side - geoXoff side n s - n * s = geoXoff side n s + 1) := by
  rw [geoXoff]
  omega

/-- Settles O51: `le_geoScale` says that no larger scale fits, `geoXoff_le_half` bounds both offsets, and the other parts are
bounds on the scale COMMIT takes. -/
theorem geometryFitsFramebuffer : Obligations.GeometryFitsFramebuffer := by
  refine ⟨fun fbW fbH w h hw hwfit hh hhfit => ?_, fun w h hw hwfit hh hhfit => geoScale_default_eq_iff hw hwfit hh hhfit,
    by decide⟩
  have hpos := geoScale_pos fbW fbH w h
  have hcolumns := geoScale_mul_width fbH h hw hwfit
  have hrows := geoScale_mul_height fbW w hh hhfit
  refine ⟨⟨hpos, hcolumns, hrows, fun k => le_geoScale hw hh⟩, geoScale_le_min hw hwfit hh hhfit, ?_, ?_,
    geoXoff_add hcolumns, geoYoff_add hrows⟩
  · exact ⟨geoXoff_le_half hw hpos, geoScale_full_height fbW 1 (hh.trans hhfit), rfl⟩
  · exact ⟨geoXoff_le_half hh hpos, geoScale_full_width fbH 1 (hw.trans hwfit), rfl⟩

/-- Settles O52: `margin_after` on each axis. -/
theorem imageCentredWithinOnePixel : Obligations.ImageCentredWithinOnePixel := by
  intro fbW fbH w h _ _ _ _ s
  obtain ⟨hevenColumns, hoddColumns⟩ := margin_after fbW w s
  obtain ⟨hevenRows, hoddRows⟩ := margin_after fbH h s
  rw [geoYoff_eq_geoXoff]
  exact ⟨hevenColumns, hoddColumns, hevenRows, hoddRows⟩

/-! ## COMMIT of a valid configuration (R98) -/

/-- COMMIT latches a candidate configuration in which it finds no violation. -/
theorem commit_accepted {s : State} (hvalid : s.candidateErr = .none) :
    s.commit = s.latchConfig s.cfgWidth s.cfgHeight s.cfgPalSize s.candidateScale := by
  rw [State.commit, hvalid]

/-- Settles O20: COMMIT finds no violation and latches the geometry, which the 16 bits of each register hold whole. -/
theorem commitLatchesValidConfiguration : Obligations.CommitLatchesValidConfiguration := by
  intro ig s hparams hidle hw hwfit hh hhfit hp hpfit
  have hvalid : s.candidateErr = .none := cfgErrOf_eq_none.mpr ⟨⟨hw, hwfit⟩, ⟨hh, hhfit⟩, hp, hpfit⟩
  have hcolumns := geoScale_mul_width s.fbH s.cfgHeight.toNat hw hwfit
  have hrows := geoScale_mul_height s.fbW s.cfgWidth.toNat hh hhfit
  have hside : s.candidateScale ≤ s.fbW := (geoScale_le_min hw hwfit hh hhfit).trans (min_le_left _ _)
  have hscale : (BitVec.ofNat 16 s.candidateScale).toNat = geoScale s.fbW s.fbH s.cfgWidth.toNat s.cfgHeight.toNat :=
    stored_whole hparams.fbW hside
  refine ⟨s.latchConfig s.cfgWidth s.cfgHeight s.cfgPalSize s.candidateScale, ?_, ?_⟩
  · rw [exec, execCommit, State.hostWrite_idle s _ hidle, commit_accepted hvalid]
  · rw [State.latchConfig_scale, State.latchConfig_xoff, State.latchConfig_yoff, hscale,
      stored_whole hparams.fbW (geoXoff_le _ _ _), stored_whole hparams.fbH (geoYoff_le _ _ _)]
    exact ⟨rfl, geoScale_eq_min hw hwfit hh hhfit, hcolumns, rfl, hrows, rfl, rfl⟩

/-! ## The image lies in the framebuffer (R124, R126) -/

/-- The image of a committed configuration lies within the framebuffer's rows (R120 (e)). -/
theorem image_fits_rows {s : State} (hconfig : s.ConfigOk) (hvalid : s.cfgValid = true) :
    s.yoff.toNat + s.actHeight.toNat * s.scale.toNat ≤ s.fbH := by
  obtain ⟨hpos, hle⟩ := hconfig.height hvalid
  rw [hconfig.yoff hvalid]
  apply geoYoff_add
  rw [hconfig.scale hvalid]
  exact geoScale_mul_height s.fbW s.actWidth.toNat hpos hle

/-- The image rectangle of a committed configuration is part of the framebuffer (R126). -/
theorem inFramebuffer_of_inImage {s : State} (hconfig : s.ConfigOk) (hvalid : s.cfgValid = true) {x y : Nat}
    (h : InImage s x y) : x < s.fbW ∧ y < s.fbH := by
  obtain ⟨-, hx, -, hy⟩ := h
  exact ⟨hx.trans_le (image_fits_columns hconfig hvalid), hy.trans_le (image_fits_rows hconfig hvalid)⟩

/-- Settles O49: the cursor's block is a block of the canvas, which lies in the image, which lies in the framebuffer. -/
theorem paintStaysInsideFramebuffer : Obligations.PaintStaysInsideFramebuffer := by
  intro s x y hinv hbusy hrow hin
  have hdecode := hinv.decode hbusy
  have himage : InImage s x y := inImage_of_inBlock hdecode.column hrow hin
  obtain ⟨hx, hy⟩ := inFramebuffer_of_inImage hinv.config hdecode.configured himage
  exact ⟨hx, hy, himage⟩

/-! ## PAINT (R108, R122, R123) -/

@[simp] theorem advance_pixel (s : State) (n x y : Nat) : (s.advance n).pixel x y = s.pixel x y := rfl
@[simp] theorem countPixel_pixel (s : State) (x y : Nat) : s.countPixel.pixel x y = s.pixel x y := rfl

/-- The block of a column of the canvas ends within the framebuffer's columns (R124). -/
theorem block_fits_columns {s : State} (hconfig : s.ConfigOk) (hvalid : s.cfgValid = true) {px : Nat}
    (hpx : px < s.actWidth.toNat) : blockX s px + s.scale.toNat ≤ s.fbW := by
  have hend := cell_end_le s.scale.toNat hpx
  have himage := image_fits_columns hconfig hvalid
  rw [blockX]
  omega

/-- A run that is not used up counts down by one (R108). -/
theorem countPixel_rem_toNat {s : State} (hrem : s.rem ≠ 0) : s.countPixel.rem.toNat = s.rem.toNat - 1 := by
  have hpos : s.rem.toNat ≠ 0 := fun hzero => hrem (BitVec.eq_of_toNat_eq hzero)
  obtain ⟨-, hcount⟩ := rem_countDown (Nat.sub_one_add_one hpos).symm
  exact hcount

/-- Settles O14: PAINT is `blit`, one step of `advance` and `countPixel`; the invariant keeps the block in the framebuffer's
columns, where `State.blit_pixel` says what each pixel takes. -/
theorem enginePaintsOneBlock : Obligations.EnginePaintsOneBlock := by
  intro s colour hinv hbusy hrem hrow hpal
  have hdecode := hinv.decode hbusy
  have hnextRow : s.py.toNat + 1 < 2 ^ 32 := by
    have := s.actHeight.isLt
    omega
  have hblock := block_fits_columns hinv.config hdecode.configured hdecode.column
  refine ⟨((s.blit s.px.toNat s.py.toNat colour).advance 1).countPixel, ?_, fun x y hx => ?_, countPixel_rem_toNat hrem,
    State.advance_column 1 hdecode.column, State.advance_row 1 hdecode.column hnextRow, rfl⟩
  · rw [engineStep_paint hbusy hrem hrow, enginePaint_written hpal]
  · rw [countPixel_pixel, advance_pixel]
    exact State.blit_pixel s hinv.stores.fbRising _ _ colour hblock x y hx

end Sys2Proof.Proofs

/-! # What COMMIT and START refuse (60_exceptions.md)

The first violation that each check finds, as one equation per case (R135, R136), and the exact state in which a rejected
COMMIT and a refused START leave VPDEC (R98, R99). -/

namespace Sys2Proof.Proofs

open Sys2Proof.Machine

/-! ## The first violation of a configuration (R135) -/

/-- A field is out of range when it is zero or above its maximum. -/
theorem not_in_range_iff {n maximum : Nat} : ¬(1 ≤ n ∧ n ≤ maximum) ↔ n = 0 ∨ maximum < n := by
  omega

section FirstViolation

variable {fbW fbH palMax w h p : Nat}

theorem cfgErrOf_width (hw : w = 0 ∨ fbW < w) : cfgErrOf fbW fbH palMax w h p = .width := by
  rw [cfgErrOf, if_pos (not_in_range_iff.mpr hw)]

theorem cfgErrOf_height (hw : ¬(w = 0 ∨ fbW < w)) (hh : h = 0 ∨ fbH < h) :
    cfgErrOf fbW fbH palMax w h p = .height := by
  rw [cfgErrOf, if_neg (mt not_in_range_iff.mp hw), if_pos (not_in_range_iff.mpr hh)]

theorem cfgErrOf_palSize (hw : ¬(w = 0 ∨ fbW < w)) (hh : ¬(h = 0 ∨ fbH < h)) (hp : p = 0 ∨ palMax < p) :
    cfgErrOf fbW fbH palMax w h p = .palSize := by
  rw [cfgErrOf, if_neg (mt not_in_range_iff.mp hw), if_neg (mt not_in_range_iff.mp hh),
    if_pos (not_in_range_iff.mpr hp)]

end FirstViolation

/-! ## COMMIT of an invalid configuration (R98) -/

theorem exec_commit (ig : BitVec 30) (s : State) : exec (.commit ig) s = .next (s.hostWrite State.commit) := rfl

/-- COMMIT on an idle VPDEC rejects the candidate configuration with the violation it finds. -/
theorem exec_commit_rejected {s : State} {err : CfgErr} (hidle : s.busy = false) (hfound : s.candidateErr = err)
    (herr : err ≠ .none) (ig : BitVec 30) : exec (.commit ig) s = .next (s.rejectConfig err) := by
  rw [exec_commit, next_hostWrite_idle _ hidle]
  obtain ⟨hvalid, -⟩ | ⟨e, he, -, hcommit⟩ := s.commit_cases
  · exact absurd (hfound.symm.trans hvalid) herr
  · rw [hcommit, ← he, hfound]

/-- Settles O21: in each clause the check finds the violation named, and COMMIT is `rejectConfig` with it. -/
theorem commitReportsFirstViolation : Obligations.CommitReportsFirstViolation := by
  intro ig s hidle rejected badWidth badHeight badPalSize
  refine ⟨fun hw => ?_, fun hw hh => ?_, fun hw hh hp => ?_⟩
  · exact exec_commit_rejected hidle (cfgErrOf_width hw) nofun ig
  · exact exec_commit_rejected hidle (cfgErrOf_height hw hh) nofun ig
  · exact exec_commit_rejected hidle (cfgErrOf_palSize hw hh hp) nofun ig

/-! ## The first violation of a frame size (R136) -/

theorem fsErrOf_zero {bufMax size : Nat} (hzero : size = 0) : fsErrOf bufMax size = .zero :=
  if_pos hzero

theorem fsErrOf_odd {bufMax size : Nat} (hodd : size % 2 = 1) : fsErrOf bufMax size = .odd := by
  have hpos : size ≠ 0 := by omega
  rw [fsErrOf, if_neg hpos, if_pos hodd]

theorem fsErrOf_tooBig {bufMax size : Nat} (heven : size % 2 = 0) (hbig : bufMax < size) :
    fsErrOf bufMax size = .tooBig := by
  have hpos : size ≠ 0 := by omega
  have hnotOdd : size % 2 ≠ 1 := by omega
  rw [fsErrOf, if_neg hpos, if_neg hnotOdd, if_pos hbig]

/-! ## START refused (R99) -/

theorem exec_start (ig : BitVec 30) (s : State) : exec (.start ig) s = .next (s.hostWrite State.start) := rfl

/-- START on an idle VPDEC without a valid configuration is refused with NOCFG. -/
theorem exec_start_noCfg {s : State} (hidle : s.busy = false) (hinvalid : s.cfgValid = false) (ig : BitVec 30) :
    exec (.start ig) s = .next (s.refuseStart .noCfg .none) := by
  rw [exec_start, next_hostWrite_idle _ hidle, State.start, hinvalid, if_neg Bool.false_ne_true]

/-- START on an idle VPDEC with a valid configuration is refused as CORRUPT with the violation it finds in the frame
size. -/
theorem exec_start_corrupt {s : State} {err : FsErr} (hidle : s.busy = false) (hvalid : s.cfgValid = true)
    (hfound : fsErrOf s.bufferMax s.frameSize.toNat = err) (herr : err ≠ .none) (ig : BitVec 30) :
    exec (.start ig) s = .next (s.refuseStart .corrupt err) := by
  rw [exec_start, next_hostWrite_idle _ hidle]
  obtain ⟨-, haccepted, -⟩ | ⟨hinvalid, -⟩ | ⟨-, e, he, -, hstart⟩ := s.start_cases
  · exact absurd (hfound.symm.trans haccepted) herr
  · exact absurd (hvalid.symm.trans hinvalid) nofun
  · rw [hstart, ← he, hfound]

/-- Settles O23: BUSY drops the START, without a configuration it is NOCFG, and otherwise the check of the frame size finds
the violation named. -/
theorem startRefusesInOrder : Obligations.StartRefusesInOrder := by
  intro ig s refused
  refine ⟨fun hbusy => ?_, fun hidle hinvalid => ?_, fun hidle hvalid hzero => ?_, fun hidle hvalid hodd => ?_,
    fun hidle hvalid heven hbig => ?_⟩
  · rw [exec_start, next_hostWrite_busy _ hbusy]
  · exact exec_start_noCfg hidle hinvalid ig
  · exact exec_start_corrupt hidle hvalid (fsErrOf_zero hzero) nofun ig
  · exact exec_start_corrupt hidle hvalid (fsErrOf_odd hodd) nofun ig
  · exact exec_start_corrupt hidle hvalid (fsErrOf_tooBig heven hbig) nofun ig

end Sys2Proof.Proofs

/-! # The decoder, the encoder and the opcode table (30_encoding.md)

Decoding undoes encoding and encoding undoes decoding (R70, R75 to R77), every code decodes to a well-formed instruction
(R73, R76), and exactly one row of the opcode table hits a code, the one of the instruction it decodes to. -/

namespace Sys2Proof.Proofs

open Sys2Proof.Machine

/-! ## Decoding what was encoded -/

/-- The family `Laws.RoundTrip`, at every instruction. -/
theorem roundTrip (i : Instr) : Laws.RoundTrip.Statement i :=
  match i with
  | .run c i => Laws.RoundTrip.run c i
  | .skip c i => Laws.RoundTrip.skip c i
  | .ctrlNop ig => Laws.RoundTrip.ctrlNop ig
  | .commit ig => Laws.RoundTrip.commit ig
  | .start ig => Laws.RoundTrip.start ig
  | .commitStart ig => Laws.RoundTrip.commitStart ig
  | .rdCtrl => Laws.RoundTrip.rdCtrl
  | .rdStatus => Laws.RoundTrip.rdStatus
  | .wrStatus d => Laws.RoundTrip.wrStatus d
  | .rdCfgWidth => Laws.RoundTrip.rdCfgWidth
  | .wrCfgWidth d => Laws.RoundTrip.wrCfgWidth d
  | .rdCfgHeight => Laws.RoundTrip.rdCfgHeight
  | .wrCfgHeight d => Laws.RoundTrip.wrCfgHeight d
  | .rdCfgPalSize => Laws.RoundTrip.rdCfgPalSize
  | .wrCfgPalSize d => Laws.RoundTrip.wrCfgPalSize d
  | .rdFrameSize => Laws.RoundTrip.rdFrameSize
  | .wrFrameSize d => Laws.RoundTrip.wrFrameSize d
  | .rdActWidth => Laws.RoundTrip.rdActWidth
  | .wrActWidth d => Laws.RoundTrip.wrActWidth d
  | .rdActHeight => Laws.RoundTrip.rdActHeight
  | .wrActHeight d => Laws.RoundTrip.wrActHeight d
  | .rdActPalSize => Laws.RoundTrip.rdActPalSize
  | .wrActPalSize d => Laws.RoundTrip.wrActPalSize d
  | .rdScale => Laws.RoundTrip.rdScale
  | .wrScale d => Laws.RoundTrip.wrScale d
  | .rdXoff => Laws.RoundTrip.rdXoff
  | .wrXoff d => Laws.RoundTrip.wrXoff d
  | .rdYoff => Laws.RoundTrip.rdYoff
  | .wrYoff d => Laws.RoundTrip.wrYoff d
  | .rdCurPx => Laws.RoundTrip.rdCurPx
  | .wrCurPx d => Laws.RoundTrip.wrCurPx d
  | .rdCurPy => Laws.RoundTrip.rdCurPy
  | .wrCurPy d => Laws.RoundTrip.wrCurPy d
  | .rdCurRp => Laws.RoundTrip.rdCurRp
  | .wrCurRp d => Laws.RoundTrip.wrCurRp d
  | .rdCurRun => Laws.RoundTrip.rdCurRun
  | .wrCurRun d => Laws.RoundTrip.wrCurRun d
  | .rdPal k => Laws.RoundTrip.rdPal k
  | .wrPal k d => Laws.RoundTrip.wrPal k d
  | .rdRsvd off => Laws.RoundTrip.rdRsvd off
  | .wrRsvd off d => Laws.RoundTrip.wrRsvd off d
  | .rdbBuf j => Laws.RoundTrip.rdbBuf j
  | .wrbBuf j d => Laws.RoundTrip.wrbBuf j d
  | .rdbRsvd off => Laws.RoundTrip.rdbRsvd off
  | .wrbRsvd off d => Laws.RoundTrip.wrbRsvd off d
  | .hostFaultW16 dir off => Laws.RoundTrip.hostFaultW16 dir off
  | .hostFaultW3 dir off => Laws.RoundTrip.hostFaultW3 dir off
  | .hostFaultMisaligned dir off => Laws.RoundTrip.hostFaultMisaligned dir off
  | .hostFaultW32High dir off => Laws.RoundTrip.hostFaultW32High dir off
  | .hostFaultW8Low dir off => Laws.RoundTrip.hostFaultW8Low dir off

/-- Settles O1: the family `Laws.RoundTrip` has a member for each constructor. -/
theorem decodeEncodeRoundTrip : Obligations.DecodeEncodeRoundTrip :=
  fun bufMax palSize i hwf hfits => roundTrip i bufMax palSize hwf hfits

/-! ## Encoding what was decoded -/

/-- The register at an aligned offset below 0x40 has that offset (R76). -/
theorem offset_ofIndex {off : Half} (haligned : off.toNat % 4 = 0) (hregister : off.toNat < 0x40) :
    (Reg.ofIndex (off.extractLsb' 2 4)).offset = off := by
  have hoffset : ∀ i : BitVec 4, (Reg.ofIndex i).offset.toNat = 4 * i.toNat := by decide
  apply BitVec.eq_of_toNat_eq
  rw [hoffset, BitVec.extractLsb'_toNat, Nat.shiftRight_eq_div_pow]
  omega

/-- The palette entry at an aligned offset of the palette table has that offset (R76). -/
theorem palOffset_extract {off : Half} (haligned : off.toNat % 4 = 0) (hlow : 0x40 ≤ off.toNat)
    (hhigh : off.toNat < 0x80) : palOffset (off.extractLsb' 2 4) = off := by
  apply BitVec.eq_of_toNat_eq
  rw [Laws.palOffset_toNat, BitVec.extractLsb'_toNat, Nat.shiftRight_eq_div_pow]
  omega

/-- The payload byte at an offset of the payload window has that offset (R76). -/
theorem bufOffset_extract {off : Half} (h : 0x8000 ≤ off.toNat) : bufOffset (off.extractLsb' 0 15) = off := by
  apply BitVec.eq_of_toNat_eq
  rw [Laws.bufOffset_toNat, Laws.window_index off h]
  omega

/-- A command and the bits it ignores are the whole data (R77). -/
theorem ignored_append_command (data : Word) : data.extractLsb' 2 30 ++ data.extractLsb' 0 2 = data := by
  have hdata := data.isLt
  apply BitVec.eq_of_toNat_eq
  rw [Laws.append_toNat, BitVec.extractLsb'_toNat, BitVec.extractLsb'_toNat, Nat.shiftRight_eq_div_pow]
  omega

theorem encode_decodeCommand (data : Word) :
    encode (decodeCommand data) = .bus (.write32 Reg.ctrl.offset data) := by
  have henc : encode (decodeCommand data) = .bus (.command (data.extractLsb' 2 30) (data.extractLsb' 0 2)) := by
    unfold decodeCommand
    generalize data.extractLsb' 0 2 = cmd
    have hcmd : cmd = 0 ∨ cmd = 1 ∨ cmd = 2 ∨ cmd = 3 := by revert cmd; decide
    obtain rfl | rfl | rfl | rfl := hcmd <;> rfl
  rw [henc, Txn.command, ignored_append_command]

theorem encode_decodeRegRead (r : Reg) : encode (decodeRegRead r) = .bus (.read32 r.offset) := by
  cases r <;> rfl

theorem encode_decodeRegWrite (r : Reg) (data : Word) :
    encode (decodeRegWrite r data) = .bus (.write32 r.offset data) := by
  cases r
  case ctrl => exact encode_decodeCommand data
  all_goals rfl

/-- A 32-bit access is encoded at its own width, direction and offset, an admitted write with its data (R75). -/
theorem encode_decodeWordAccess (dir : Dir) (off : Half) (data : Word) :
    ∃ d, encode (decodeWordAccess dir off data) = .bus ⟨2, dir, off, d⟩ ∧
      (dir = .write → off.toNat < 0x8000 → off.toNat % 4 = 0 → d = data) := by
  unfold decodeWordAccess
  split_ifs with hhigh hmisaligned hregister hpalette
  · exact ⟨0, rfl, fun _ hlow => absurd hhigh (Nat.not_le.mpr hlow)⟩
  · exact ⟨0, rfl, fun _ _ haligned => absurd haligned hmisaligned⟩
  · have hoff := offset_ofIndex (not_not.mp hmisaligned) hregister
    cases dir
    · exact ⟨0, by rw [encode_decodeRegRead, hoff, Txn.read32], nofun⟩
    · exact ⟨data, by rw [encode_decodeRegWrite, hoff, Txn.write32], fun _ _ _ => rfl⟩
  · have hoff := palOffset_extract (not_not.mp hmisaligned) (Nat.le_of_not_lt hregister) hpalette
    cases dir
    · exact ⟨0, by rw [encode, hoff, Txn.read32], nofun⟩
    · exact ⟨data, by rw [encode, hoff, Txn.write32], fun _ _ _ => rfl⟩
  · cases dir
    · exact ⟨0, rfl, nofun⟩
    · exact ⟨data, rfl, fun _ _ _ => rfl⟩

/-- An 8-bit access is encoded at its own width, direction and offset, an admitted write with its byte (R75). -/
theorem encode_decodeByteAccess (bufMax : Nat) (dir : Dir) (off : Half) (data : Word) :
    ∃ d, encode (decodeByteAccess bufMax dir off data) = .bus ⟨0, dir, off, d⟩ ∧
      (dir = .write → 0x8000 ≤ off.toNat → d.toNat = data.toNat % 256) := by
  have hbyte : ((data.extractLsb' 0 8).setWidth 32).toNat = data.toNat % 256 := by
    rw [BitVec.toNat_setWidth, BitVec.extractLsb'_toNat, Nat.shiftRight_zero]
    omega
  unfold decodeByteAccess
  dsimp only
  split_ifs with hlow hinside
  · exact ⟨0, rfl, fun _ hhigh => absurd hlow (Nat.not_lt.mpr hhigh)⟩
  · have hoff := bufOffset_extract (Nat.le_of_not_lt hlow)
    cases dir
    · exact ⟨0, by rw [encode, hoff, Txn.read8], nofun⟩
    · exact ⟨_, by rw [encode, hoff, Txn.write8], fun _ _ => hbyte⟩
  · cases dir
    · exact ⟨0, rfl, nofun⟩
    · exact ⟨_, rfl, fun _ _ => hbyte⟩

/-- The four width codes (R75). -/
theorem wid_cases (wid : BitVec 2) : wid = 0 ∨ wid = 1 ∨ wid = 2 ∨ wid = 3 := by
  revert wid
  decide

/-- Settles O2: each width's decoder keeps the fields that the key is made of. -/
theorem encodeDecodeKeepsTransaction : Obligations.EncodeDecodeKeepsTransaction := by
  rintro bufMax ⟨wid, dir, off, data⟩
  obtain rfl | rfl | rfl | rfl := wid_cases wid
  · obtain ⟨d, henc, hdata⟩ := encode_decodeByteAccess bufMax dir off data
    exact ⟨⟨0, dir, off, d⟩, henc, rfl, nofun, fun _ => hdata⟩
  · exact ⟨⟨1, dir, off, 0⟩, rfl, rfl, nofun, nofun⟩
  · obtain ⟨d, henc, hdata⟩ := encode_decodeWordAccess dir off data
    exact ⟨⟨2, dir, off, d⟩, henc, rfl, fun _ => hdata, nofun⟩
  · exact ⟨⟨3, dir, off, 0⟩, rfl, rfl, nofun, nofun⟩

/-! ## Every code decodes -/

/-- A run's index is on the side of the palette size that its instruction says (R72). -/
theorem decodeRun_wf (bufMax : Nat) {palSize : Byte} (hpal : palSize.toNat ≤ 16) (c i : Byte) :
    (decodeRun palSize c i).wf bufMax = true ∧ (decodeRun palSize c i).fits palSize = true := by
  unfold decodeRun
  split_ifs with hlt
  · exact ⟨decide_eq_true (hlt.trans_le hpal), decide_eq_true hlt⟩
  · exact ⟨rfl, decide_eq_true (Nat.le_of_not_lt hlt)⟩

/-- Settles O3: `decodeRun_wf` for the runs, `decodeTxn_wf` for the transactions. -/
theorem everyCodeDecodesWellFormed : Obligations.EveryCodeDecodesWellFormed :=
  fun bufMax => ⟨fun _ c i hpal => ⟨ite_eq_or_eq _ _ _, decodeRun_wf bufMax hpal c i⟩, decodeTxn_wf bufMax⟩

/-! ## Masked numbers -/

/-- A masked comparison, above and below a bit. -/
theorem and_eq_iff_div_mod (k n m v : Nat) :
    n &&& m = v ↔ n / 2 ^ k &&& m / 2 ^ k = v / 2 ^ k ∧ n % 2 ^ k &&& m % 2 ^ k = v % 2 ^ k := by
  rw [← Nat.and_div_two_pow, ← Nat.and_mod_two_pow]
  refine ⟨fun h => by rw [h]; exact ⟨rfl, rfl⟩, fun ⟨hdiv, hmod⟩ => ?_⟩
  rw [← Nat.div_add_mod (n &&& m) (2 ^ k), hdiv, hmod, Nat.div_add_mod]

/-- A field of `j` bits from bit `k` on, compared with `v`. -/
theorem and_field_eq_iff (j k n v : Nat) :
    n &&& (2 ^ j - 1) * 2 ^ k = v * 2 ^ k ↔ n / 2 ^ k % 2 ^ j = v := by
  rw [and_eq_iff_div_mod k, Nat.mul_div_cancel _ (Nat.two_pow_pos k), Nat.mul_div_cancel _ (Nat.two_pow_pos k),
    Nat.mul_mod_left, Nat.mul_mod_left, Nat.and_zero, Nat.and_two_pow_sub_one_eq_mod]
  exact and_iff_left rfl

theorem and_one_eq_mod (n : Nat) : n &&& 1 = n % 2 := Nat.and_two_pow_sub_one_eq_mod n 1

theorem and_three_eq_mod (n : Nat) : n &&& 3 = n % 4 := Nat.and_two_pow_sub_one_eq_mod n 2

section Offset

variable {off : Nat} (hoff : off < 2 ^ 16)

include hoff

/-- The bit that tells the payload window from the 32-bit locations (R50). -/
theorem and_windowBit_eq_zero : off &&& 0x8000 = 0 ↔ off < 0x8000 := by
  have hbit : off &&& 0x8000 = 0 ↔ off / 2 ^ 15 % 2 ^ 1 = 0 := and_field_eq_iff 1 15 off 0
  rw [hbit]
  omega

theorem and_windowBit_eq_self : off &&& 0x8000 = 0x8000 ↔ 0x8000 ≤ off := by
  have hbit : off &&& 0x8000 = 0x8000 ↔ off / 2 ^ 15 % 2 ^ 1 = 1 := and_field_eq_iff 1 15 off 1
  rw [hbit]
  omega

/-- The bits that the rows of the reserved 32-bit locations look at (R50). -/
theorem and_reservedBits : off &&& 0x8003 = 0 ↔ off < 0x8000 ∧ off % 4 = 0 := by
  rw [and_eq_iff_div_mod 15, show 0x8003 / 2 ^ 15 = 1 from rfl, show 0x8003 % 2 ^ 15 = 3 from rfl, and_one_eq_mod,
    and_three_eq_mod]
  omega

/-- The bits that the rows of the palette table look at (R50). -/
theorem and_paletteBits : off &&& 0xFFC3 = 0x40 ↔ 0x40 ≤ off ∧ off < 0x80 ∧ off % 4 = 0 := by
  rw [and_eq_iff_div_mod 6, show 0xFFC3 / 2 ^ 6 = 2 ^ 10 - 1 from rfl, show 0xFFC3 % 2 ^ 6 = 3 from rfl, and_three_eq_mod,
    Nat.and_two_pow_sub_one_eq_mod]
  omega

end Offset

/-! ## The rows that hit -/

/-- The mnemonics of the rows that hit. -/
def namesHit {ρ : Type} (hits : ρ → Bool) (name : ρ → String) (rows : List ρ) : List String :=
  (rows.filter hits).map name

section NamesHit

variable {ρ : Type} (hits : ρ → Bool) (name : ρ → String)

theorem namesHit_nil : namesHit hits name [] = [] := rfl

theorem namesHit_cons (r : ρ) (rows : List ρ) :
    namesHit hits name (r :: rows) = (if hits r = true then [name r] else []) ++ namesHit hits name rows := by
  simp only [namesHit, List.filter_cons]
  split_ifs <;> rfl

theorem namesHit_append (rows rows' : List ρ) :
    namesHit hits name (rows ++ rows') = namesHit hits name rows ++ namesHit hits name rows' := by
  simp [namesHit]

variable {hits name}

/-- What exactly one row hitting means. -/
theorem exists_and_forall_of_namesHit {rows : List ρ} {m : String} (h : namesHit hits name rows = [m]) :
    (∃ r ∈ rows, hits r = true) ∧ ∀ r ∈ rows, hits r = true → name r = m := by
  obtain ⟨r, hr, rfl⟩ := List.map_eq_singleton_iff.mp h
  have hmem (q : ρ) : q ∈ rows ∧ hits q = true ↔ q = r := by
    rw [← List.mem_filter, hr, List.mem_singleton]
  obtain ⟨hin, hhit⟩ := (hmem r).mpr rfl
  exact ⟨⟨r, hin, hhit⟩, fun q hq hqhit => by rw [(hmem q).mp ⟨hq, hqhit⟩]⟩

end NamesHit

/-- The mnemonics of the rows that hit a transaction. -/
abbrev rowsHit (rows : List BusRow) (bufMax : Nat) (t : Txn) : List String :=
  namesHit (·.hits bufMax t) (·.mnemonic) rows

/-- The mnemonics of the rows that hit a run's word. -/
abbrev rleRowsHit (rows : List RleRow) (palSize : Byte) (w : BitVec 16) : List String :=
  namesHit (·.hits palSize w) (·.mnemonic) rows

/-- Whether a row's data bits are those of a write (R75). -/
def dataHits (r : BusRow) (data : Word) : Bool :=
  match r.data with
  | none => true
  | some d => decide (data.toNat &&& 3 = d)

theorem hits_eq (r : BusRow) (bufMax : Nat) (t : Txn) :
    r.hits bufMax t =
      (decide (t.key.toNat &&& r.mask = r.value) && dataHits r t.data && r.condition.holds bufMax 0 0 t.off.toNat) :=
  rfl

/-! ### The rows of the registers -/

/-- The rows whose pattern is a whole key (R75). -/
def registerRows : List BusRow := busRowsCommands ++ busRowsReadOnly

/-- The whole keys of the register rows are those of 32-bit accesses at their offsets. -/
theorem registerRows_key : ∀ r ∈ registerRows, r.mask = 2 ^ 19 - 1 ∧ r.condition = .always ∧
    r.value / 2 ^ 17 = 2 ∧ r.value % 2 ^ 16 < 0x40 ∧ r.value % 4 = 0 := by decide

/-- A register row hits the key it names (R75). -/
theorem rowsHit_registerRows (bufMax : Nat) (t : Txn) :
    rowsHit registerRows bufMax t =
      ((registerRows.filter fun r =>
        decide (t.wid.toNat * 2 ^ 17 + (t.dir.bit.toNat * 2 ^ 16 + t.off.toNat) = r.value)).filter
        (dataHits · t.data)).map (·.mnemonic) := by
  rw [← key_toNat, rowsHit, namesHit, List.filter_filter]
  refine congrArg _ (List.filter_congr fun r hr => ?_)
  obtain ⟨hmask, hcond, -⟩ := registerRows_key r hr
  rw [hits_eq, hmask, hcond, Nat.and_two_pow_sub_one_eq_mod, Nat.mod_eq_of_lt t.key.isLt, RowCondition.holds,
    Bool.and_true, Bool.and_comm]

/-- No register row hits elsewhere. -/
theorem rowsHit_registerRows_nil (bufMax : Nat) {t : Txn}
    (h : ¬(t.wid = 2 ∧ t.off.toNat < 0x40 ∧ t.off.toNat % 4 = 0)) : rowsHit registerRows bufMax t = [] := by
  have hnone : ∀ r ∈ registerRows,
      ¬decide (t.wid.toNat * 2 ^ 17 + (t.dir.bit.toNat * 2 ^ 16 + t.off.toNat) = r.value) = true := by
    intro r hr hkey
    obtain ⟨-, -, hwid, hregister, haligned⟩ := registerRows_key r hr
    rw [decide_eq_true_eq] at hkey
    have hdir := t.dir.bit.isLt
    have hoff := t.off.isLt
    exact h ⟨BitVec.eq_of_toNat_eq (show t.wid.toNat = 2 by omega), by omega, by omega⟩
  rw [rowsHit_registerRows, List.filter_eq_nil_iff.mpr hnone, List.filter_nil, List.map_nil]

theorem rowsHit_register_read (bufMax : Nat) (r : Reg) (data : Word) :
    rowsHit registerRows bufMax ⟨2, .read, r.offset, data⟩ = [(decodeRegRead r).mnemonic] := by
  rw [rowsHit_registerRows]
  cases r <;> simp [registerRows, busRowsCommands, busRowsReadOnly, dataHits, Reg.offset, Dir.bit] <;> rfl

theorem rowsHit_command (bufMax : Nat) (data : Word) :
    rowsHit registerRows bufMax ⟨2, .write, Reg.ctrl.offset, data⟩ = [(decodeCommand data).mnemonic] := by
  have hkey : (registerRows.filter fun r => decide ((2 : BitVec 2).toNat * 2 ^ 17 +
      (Dir.write.bit.toNat * 2 ^ 16 + Reg.ctrl.offset.toNat) = r.value)) = busRowsCommands.take 4 := by
    simp [registerRows, busRowsCommands, busRowsReadOnly, Reg.offset, Dir.bit]
  have hcmd : data.toNat &&& 3 = (data.extractLsb' 0 2).toNat := by
    rw [and_three_eq_mod, BitVec.extractLsb'_toNat, Nat.shiftRight_zero]
  rw [rowsHit_registerRows, hkey]
  simp only [busRowsCommands, List.take, List.filter_cons, List.filter_nil, dataHits, hcmd, decodeCommand]
  obtain h | h | h | h := wid_cases (data.extractLsb' 0 2) <;> rw [h] <;> rfl

theorem rowsHit_register_write (bufMax : Nat) (r : Reg) (data : Word) :
    rowsHit registerRows bufMax ⟨2, .write, r.offset, data⟩ = [(decodeRegWrite r data).mnemonic] := by
  cases r
  case ctrl => exact rowsHit_command bufMax data
  all_goals
    rw [rowsHit_registerRows]
    simp [registerRows, busRowsCommands, busRowsReadOnly, dataHits, Reg.offset, Dir.bit]
    rfl

/-! ### The rows of the tables, the reserved locations and the accesses not admitted -/

/-- A row without data bits hits by its pattern, width and direction above the offset, and its condition (R75). -/
theorem hits_mk_none (name : String) (value mask : Nat) (c : RowCondition) (bufMax : Nat) (t : Txn) :
    (⟨name, value, mask, none, c⟩ : BusRow).hits bufMax t = true ↔
      (t.wid.toNat * 2 + t.dir.bit.toNat &&& mask / 2 ^ 16 = value / 2 ^ 16 ∧
        t.off.toNat &&& mask % 2 ^ 16 = value % 2 ^ 16) ∧ c.holds bufMax 0 0 t.off.toNat = true := by
  have hoff := t.off.isLt
  have hkey := key_toNat t
  have hdiv : t.key.toNat / 2 ^ 16 = t.wid.toNat * 2 + t.dir.bit.toNat := by omega
  have hmod : t.key.toNat % 2 ^ 16 = t.off.toNat := by omega
  rw [hits_eq, dataHits, Bool.and_true, Bool.and_eq_true, decide_eq_true_eq, and_eq_iff_div_mod 16, hdiv, hmod]

/-- The table has two rows for each access of a table or a reserved location, one for each direction. -/
def byDir (read write : String) : Dir → String
  | .read => read
  | .write => write

/-- The memory rows that hit a 32-bit access, by its offset (R50, R57). -/
theorem rowsHit_memory_word (bufMax : Nat) (dir : Dir) (off : Half) (data : Word) :
    rowsHit busRowsMemory bufMax ⟨2, dir, off, data⟩ =
      (if 0x40 ≤ off.toNat ∧ off.toNat < 0x80 ∧ off.toNat % 4 = 0 then
        [byDir "RD_PAL" "WR_PAL" dir] else []) ++
      (if (off.toNat < 0x8000 ∧ off.toNat % 4 = 0) ∧ 0x80 ≤ off.toNat ∧ off.toNat ≤ 0x7FFC then
        [byDir "RD_RSVD" "WR_RSVD" dir] else []) ++
      (if off.toNat < 0x8000 ∧ off.toNat % 4 ≠ 0 then ["HOSTFAULT_MISALIGNED"] else []) ++
      (if 0x8000 ≤ off.toNat then ["HOSTFAULT_W32_HIGH"] else []) := by
  have hoff := off.isLt
  cases dir <;>
    simp [busRowsMemory, namesHit_cons, namesHit_nil, hits_mk_none, RowCondition.holds, Dir.bit, byDir,
      and_windowBit_eq_zero hoff, and_windowBit_eq_self hoff, and_reservedBits hoff, and_paletteBits hoff]

/-- The memory rows that hit an 8-bit access, by its offset (R50, R57). -/
theorem rowsHit_memory_byte (bufMax : Nat) (dir : Dir) (off : Half) (data : Word) :
    rowsHit busRowsMemory bufMax ⟨0, dir, off, data⟩ =
      (if 0x8000 ≤ off.toNat ∧ off.toNat - 0x8000 < bufMax then
        [byDir "RDB_BUF" "WRB_BUF" dir] else []) ++
      (if 0x8000 ≤ off.toNat ∧ bufMax ≤ off.toNat - 0x8000 then
        [byDir "RDB_RSVD" "WRB_RSVD" dir] else []) ++
      (if off.toNat < 0x8000 then ["HOSTFAULT_W8_LOW"] else []) := by
  have hoff := off.isLt
  cases dir <;>
    simp [busRowsMemory, namesHit_cons, namesHit_nil, hits_mk_none, RowCondition.holds, Dir.bit, byDir,
      and_windowBit_eq_zero hoff, and_windowBit_eq_self hoff]

/-- The memory rows that hit an access of one of the other widths (R57). -/
theorem rowsHit_memory_wid1 (bufMax : Nat) (dir : Dir) (off : Half) (data : Word) :
    rowsHit busRowsMemory bufMax ⟨1, dir, off, data⟩ = ["HOSTFAULT_W16"] := by
  cases dir <;> simp [busRowsMemory, namesHit_cons, namesHit_nil, hits_mk_none, RowCondition.holds, Dir.bit]

theorem rowsHit_memory_wid3 (bufMax : Nat) (dir : Dir) (off : Half) (data : Word) :
    rowsHit busRowsMemory bufMax ⟨3, dir, off, data⟩ = ["HOSTFAULT_W3"] := by
  cases dir <;> simp [busRowsMemory, namesHit_cons, namesHit_nil, hits_mk_none, RowCondition.holds, Dir.bit]

/-! ### Exactly one row hits -/

theorem rowsHit_wordAccess (bufMax : Nat) (dir : Dir) (off : Half) (data : Word) :
    rowsHit registerRows bufMax ⟨2, dir, off, data⟩ ++ rowsHit busRowsMemory bufMax ⟨2, dir, off, data⟩ =
      [(decodeWordAccess dir off data).mnemonic] := by
  have elsewhere (h : ¬(off.toNat < 0x40 ∧ off.toNat % 4 = 0)) :
      rowsHit registerRows bufMax ⟨2, dir, off, data⟩ = [] := rowsHit_registerRows_nil bufMax fun hr => h hr.2
  unfold decodeWordAccess
  split_ifs with hhigh hmisaligned hregister hpalette
  · rw [elsewhere (by omega), rowsHit_memory_word,
      if_neg (by omega), if_neg (by omega), if_neg (by omega), if_pos hhigh]
    rfl
  · rw [elsewhere (by omega), rowsHit_memory_word,
      if_neg (by omega), if_neg (by omega), if_pos (by omega), if_neg hhigh]
    rfl
  · rw [rowsHit_memory_word, if_neg (by omega), if_neg (by omega), if_neg (by omega), if_neg hhigh]
    have hoff := offset_ofIndex (not_not.mp hmisaligned) hregister
    generalize Reg.ofIndex (off.extractLsb' 2 4) = r at hoff ⊢
    subst hoff
    cases dir
    · rw [rowsHit_register_read]
      rfl
    · rw [rowsHit_register_write]
      rfl
  · rw [elsewhere (by omega), rowsHit_memory_word,
      if_pos (by omega), if_neg (by omega), if_neg (by omega), if_neg hhigh]
    cases dir <;> rfl
  · rw [elsewhere (by omega), rowsHit_memory_word,
      if_neg (by omega), if_pos (by omega), if_neg (by omega), if_neg hhigh]
    cases dir <;> rfl

theorem rowsHit_byteAccess (bufMax : Nat) (dir : Dir) (off : Half) (data : Word) :
    rowsHit busRowsMemory bufMax ⟨0, dir, off, data⟩ = [(decodeByteAccess bufMax dir off data).mnemonic] := by
  unfold decodeByteAccess
  dsimp only
  split_ifs with hlow hinside
  · rw [rowsHit_memory_byte, if_neg (by omega), if_neg (by omega), if_pos hlow]
    rfl
  · rw [Laws.window_index off (Nat.le_of_not_lt hlow)] at hinside
    rw [rowsHit_memory_byte, if_pos (by omega), if_neg (by omega), if_neg hlow]
    cases dir <;> rfl
  · rw [Laws.window_index off (Nat.le_of_not_lt hlow)] at hinside
    rw [rowsHit_memory_byte, if_neg (by omega), if_pos (by omega), if_neg hlow]
    cases dir <;> rfl

/-- Exactly one row of the opcode table hits a transaction: that of the instruction it decodes to (R75, R76). -/
theorem rowsHit_busRows (bufMax : Nat) (t : Txn) : rowsHit busRows bufMax t = [(decodeTxn bufMax t).mnemonic] := by
  have happend : rowsHit busRows bufMax t = rowsHit registerRows bufMax t ++ rowsHit busRowsMemory bufMax t :=
    namesHit_append _ _ registerRows busRowsMemory
  rw [happend]
  obtain ⟨wid, dir, off, data⟩ := t
  obtain rfl | rfl | rfl | rfl := wid_cases wid
  · rw [rowsHit_registerRows_nil bufMax fun h => absurd h.1 (show (0 : BitVec 2) ≠ 2 by decide)]
    exact rowsHit_byteAccess bufMax dir off data
  · rw [rowsHit_registerRows_nil bufMax fun h => absurd h.1 (show (1 : BitVec 2) ≠ 2 by decide)]
    exact rowsHit_memory_wid1 bufMax dir off data
  · exact rowsHit_wordAccess bufMax dir off data
  · rw [rowsHit_registerRows_nil bufMax fun h => absurd h.1 (show (3 : BitVec 2) ≠ 2 by decide)]
    exact rowsHit_memory_wid3 bufMax dir off data

/-! ### The rows that hit a run -/

/-- The rows that hit a run, by its index: the one place where its highest set bit of 7:4 is, or the side of the palette
size (R72). -/
theorem rleRowsHit_rleRows (palSize : Byte) (w : BitVec 16) :
    rleRowsHit rleRows palSize w =
      (if w.toNat / 16 % 16 = 0 ∧ w.toNat % 256 < palSize.toNat then ["RUN"] else []) ++
      (if w.toNat / 16 % 16 = 0 ∧ palSize.toNat ≤ w.toNat % 256 then ["SKIP"] else []) ++
      (if w.toNat / 128 % 2 = 1 then ["SKIP"] else []) ++ (if w.toNat / 64 % 4 = 1 then ["SKIP"] else []) ++
      (if w.toNat / 32 % 8 = 1 then ["SKIP"] else []) ++ (if w.toNat / 16 % 16 = 1 then ["SKIP"] else []) := by
  have h7 : w.toNat &&& 0x80 = 0x80 ↔ w.toNat / 128 % 2 = 1 := and_field_eq_iff 1 7 _ 1
  have h6 : w.toNat &&& 0xC0 = 0x40 ↔ w.toNat / 64 % 4 = 1 := and_field_eq_iff 2 6 _ 1
  have h5 : w.toNat &&& 0xE0 = 0x20 ↔ w.toNat / 32 % 8 = 1 := and_field_eq_iff 3 5 _ 1
  have h4 : w.toNat &&& 0xF0 = 0x10 ↔ w.toNat / 16 % 16 = 1 := and_field_eq_iff 4 4 _ 1
  have hlow : w.toNat &&& 0xF0 = 0 ↔ w.toNat / 16 % 16 = 0 := and_field_eq_iff 4 4 _ 0
  simp [rleRows, namesHit_cons, namesHit_nil, RleRow.hits, RowCondition.holds, h7, h6, h5, h4, hlow]

/-- Exactly one row of the opcode table hits a run: that of the instruction it decodes to (R72). -/
theorem rleRowsHit_eq {palSize : Byte} (hpal : palSize.toNat ≤ 16) (bufMax : Nat) (w : BitVec 16) :
    rleRowsHit rleRows palSize w = [(decode bufMax palSize (.rle w)).mnemonic] := by
  have hindex : (w.extractLsb' 0 8).toNat = w.toNat % 256 := by simp
  rw [decode, rleRowsHit_rleRows]
  by_cases hrun : w.toNat % 256 < palSize.toNat
  · rw [decodeRun_of_lt (hindex ▸ hrun), if_pos (by omega), if_neg (by omega), if_neg (by omega), if_neg (by omega),
      if_neg (by omega), if_neg (by omega)]
    rfl
  · rw [decodeRun_of_le (hindex ▸ Nat.le_of_not_lt hrun), if_neg (by omega)]
    by_cases hlow : w.toNat / 16 % 16 = 0
    · rw [if_pos (by omega), if_neg (by omega), if_neg (by omega), if_neg (by omega), if_neg (by omega)]
      rfl
    · have htop : w.toNat / 128 % 2 = 1 ∨ w.toNat / 64 % 4 = 1 ∨ w.toNat / 32 % 8 = 1 ∨ w.toNat / 16 % 16 = 1 := by
        omega
      obtain h7 | h6 | h5 | h4 := htop
      · rw [if_neg (by omega), if_pos h7, if_neg (by omega), if_neg (by omega), if_neg (by omega)]
        rfl
      · rw [if_neg (by omega), if_neg (by omega), if_pos h6, if_neg (by omega), if_neg (by omega)]
        rfl
      · rw [if_neg (by omega), if_neg (by omega), if_neg (by omega), if_pos h5, if_neg (by omega)]
        rfl
      · rw [if_neg (by omega), if_neg (by omega), if_neg (by omega), if_neg (by omega), if_pos h4]
        rfl

/-- Settles O4: exactly one row hits, and it has the mnemonic (`rowsHit_busRows`, `rleRowsHit_eq`). -/
theorem decoderAgreesWithOpcodeTable : Obligations.DecoderAgreesWithOpcodeTable :=
  fun bufMax => ⟨fun t => exists_and_forall_of_namesHit (rowsHit_busRows bufMax t),
    fun _ w hpal => exists_and_forall_of_namesHit (rleRowsHit_eq hpal bufMax w)⟩

/-! ## Words of the specification -/

/-- Settles O6: the decoder evaluates each word. -/
theorem specWordsDecode : Obligations.SpecWordsDecode := by
  unfold Obligations.SpecWordsDecode
  decide

end Sys2Proof.Proofs

/-! # What every step keeps (10_state.md, 20_memory.md section 4, 70_reset_and_hazards.md)

The effects an engine step can have and the kinds of move a step can be, each said once; from them what every step keeps
of the stores, the flags, the fault set and the inputs of a decode. -/

namespace Sys2Proof.Proofs

open Sys2Proof.Machine

/-! ## The effects of an engine step (R100 to R109) -/

/-- The shapes an engine step's next state can have, from the state before it, each with R101's condition for it. -/
inductive EngineEffect (s : State) : State → Prop
  | idle (hidle : s.busy = false) : EngineEffect s s
  | endOfPayload (hbusy : s.busy = true) (hrem : s.rem = 0) (hrp : s.rp = s.frameSize) :
    EngineEffect s (s.finish .endOfPayload)
  | fetchRun (hbusy : s.busy = true) (hrem : s.rem = 0) (hrp : s.rp ≠ s.frameSize) {c i : Byte}
    (hc : Memory.read s.buf s.rp.toNat = some c) (hi : Memory.read s.buf (s.rp.toNat + 1) = some i)
    (hlt : i.toNat < s.actPalSize.toNat) : EngineEffect s (s.passRun.loadRun c i)
  | fetchSkip (hbusy : s.busy = true) (hrem : s.rem = 0) (hrp : s.rp ≠ s.frameSize) {c i : Byte}
    (hc : Memory.read s.buf s.rp.toNat = some c) (hi : Memory.read s.buf (s.rp.toNat + 1) = some i)
    (hle : s.actPalSize.toNat ≤ i.toNat) : EngineEffect s (s.passRun.advance c.toNat)
  | clamp (hbusy : s.busy = true) (hrem : s.rem ≠ 0) (hrow : s.actHeight.toNat ≤ s.py.toNat) :
    EngineEffect s (s.finish .clamp)
  | paint (hbusy : s.busy = true) (hrem : s.rem ≠ 0) (hrow : s.py.toNat < s.actHeight.toNat) {c : Half}
    (hpal : Memory.read s.pal s.cidx.toNat = some c) :
    EngineEffect s ((s.blit s.px.toNat s.py.toNat c).advance 1).countPixel

/-- Every engine step has one of these shapes. -/
theorem engineStep_effect {s t : State} (h : engineStep s = .next t) : EngineEffect s t := by
  obtain ⟨hidle, rfl⟩ | ⟨hbusy, hrem, hrp, rfl⟩ | ⟨hbusy, hrem, hrp, hfetch⟩ | ⟨hbusy, hrem, hrow, rfl⟩ |
    ⟨hbusy, hrem, hrow, hpaint⟩ := engineStep_cases h
  · exact .idle hidle
  · exact .endOfPayload hbusy hrem hrp
  · obtain ⟨c, i, hc, hi, ⟨hlt, rfl⟩ | ⟨hle, rfl⟩⟩ := engineFetch_cases hfetch
    · exact .fetchRun hbusy hrem hrp hc hi hlt
    · exact .fetchSkip hbusy hrem hrp hc hi hle
  · exact .clamp hbusy hrem hrow
  · obtain ⟨c, hpal, rfl⟩ := enginePaint_cases hpaint
    exact .paint hbusy hrem hrow hpal

/-! ## The kinds of move (R61) -/

/-- From `P` before a step to `Q` after it, by the kinds of move: a host operation, the engine's turn, RST, and another
agent's write of a pixel that the framebuffer has. What is pending must not matter to `P`. -/
theorem step_kinds {P Q : State → Prop} {s t : State} (h : step s = .next t) (hs : P s)
    (pending : ∀ l, P { s with pending := l })
    (host : ∀ u v, P u → HostEffect u v → Q v)
    (engine : ∀ u v, P u → EngineEffect u v → Q v)
    (reset : s.pending.head? = some .reset → ∀ u, P u → Q u.resetBy)
    (display : ∀ u x y c, P u → x < u.fbW → y < u.fbH → Q (u.putPixel x y c)) : Q t := by
  obtain ⟨-, hturn⟩ | ⟨rest, -, hturn⟩ | ⟨x, rest, -, hexec⟩ | ⟨rest, -, rfl⟩ | ⟨rest, hp, rfl⟩ |
    ⟨x, y, c, rest, -, rfl⟩ | ⟨rest, -, rfl⟩ := step_cases h
  · exact engine s t hs (engineStep_effect hturn)
  · exact engine _ t (pending rest) (engineStep_effect hturn)
  · exact host _ t (pending rest) (exec_decodeTxn_effect (s := { s with pending := rest }) hexec)
  · exact host _ _ (pending _) (.reply _)
  · exact reset (congrArg List.head? hp) _ (pending rest)
  · split_ifs with hin
    · exact display _ x y c (pending rest) hin.1 hin.2
    · exact host _ _ (pending rest) .same
  · exact host _ _ (pending _) (.reply _)

/-! ## What the commands leave alone (R98, R99) -/

/-- All of a state but the committed configuration, which is what COMMIT writes. -/
def besidesCommit (s : State) : State :=
  { s with
    cfgValid := false, cfgErr := .none
    actWidth := 0, actHeight := 0, actPalSize := 0, scale := 0, xoff := 0, yoff := 0 }

/-- All of a state but the engine's registers and the outcome, which is what START writes. -/
def besidesStart (s : State) : State :=
  { s with
    px := 0, py := 0, rp := 0, rem := 0, cidx := 0
    result := .none, fsErr := .none, done := false, busy := false }

@[simp] theorem besidesCommit_commit (s : State) : besidesCommit s.commit = besidesCommit s := by
  obtain ⟨-, h⟩ | ⟨e, -, -, h⟩ := s.commit_cases <;> rw [h] <;> rfl

@[simp] theorem besidesStart_start (s : State) : besidesStart s.start = besidesStart s := by
  obtain ⟨-, -, h⟩ | ⟨-, h⟩ | ⟨-, e, -, -, h⟩ := s.start_cases <;> rw [h] <;> rfl

/-- The parameters, the stores and the fault set of a state: no command writes them. -/
def besidesCommands (s : State) : State :=
  { State.reset with
    fbW := s.fbW, fbH := s.fbH, paletteMax := s.paletteMax, bufferMax := s.bufferMax
    pal := s.pal, buf := s.buf, fb := s.fb, faults := s.faults }

@[simp] theorem besidesCommands_commit (s : State) : besidesCommands s.commit = besidesCommands s :=
  (congrArg besidesCommands (besidesCommit_commit s) :)

@[simp] theorem besidesCommands_start (s : State) : besidesCommands s.start = besidesCommands s :=
  (congrArg besidesCommands (besidesStart_start s) :)

/-! ## The parameters and the fault set (R7 to R9, R134) -/

/-- The parameters and the fault set of a state: no step writes them (log 1, log 5, log 23). -/
def fixedPart (s : State) : State :=
  { State.reset with
    fbW := s.fbW, fbH := s.fbH, paletteMax := s.paletteMax, bufferMax := s.bufferMax, faults := s.faults }

/-- No host operation writes the framebuffer, the parameters or the fault set (R113). -/
theorem hostEffect_fixedPart {s t : State} (h : HostEffect s t) : fixedPart t = fixedPart s ∧ t.fb = s.fb := by
  cases h
  case commit =>
    have h := besidesCommands_commit s
    exact ⟨(congrArg fixedPart h :), (congrArg State.fb h :)⟩
  case start =>
    have h := besidesCommands_start s
    exact ⟨(congrArg fixedPart h :), (congrArg State.fb h :)⟩
  case commitStart =>
    have h := (besidesCommands_start s.commit).trans (besidesCommands_commit s)
    exact ⟨(congrArg fixedPart h :), (congrArg State.fb h :)⟩
  all_goals exact ⟨rfl, rfl⟩

theorem engineEffect_fixedPart {s t : State} (h : EngineEffect s t) : fixedPart t = fixedPart s := by
  cases h <;> simp [fixedPart]

theorem step_fixedPart {s t : State} (h : step s = .next t) : fixedPart t = fixedPart s :=
  step_kinds (P := (fixedPart · = fixedPart s)) (Q := (fixedPart · = fixedPart s)) h rfl (fun _ => rfl)
    (fun _ _ hu he => (hostEffect_fixedPart he).1.trans hu) (fun _ _ hu he => (engineEffect_fixedPart he).trans hu)
    (fun _ _ hu => hu) (fun _ _ _ _ hu _ _ => hu)

/-- The parameters are the same after a step (R7 to R9). -/
theorem step_sameParameters {s t : State} (h : step s = .next t) : s.SameParameters t :=
  have hkept := step_fixedPart h
  ⟨(congrArg State.fbW hkept :), (congrArg State.fbH hkept :), (congrArg State.paletteMax hkept :),
    (congrArg State.bufferMax hkept :)⟩

theorem mem_record_faults {s : State} {f g : Fault} : f ∈ (s.record g).faults ↔ f = g ∨ f ∈ s.faults := by
  rw [State.record_faults]
  split_ifs with hg
  · exact ⟨.inr, fun h => h.elim (fun heq => heq ▸ hg) id⟩
  · exact List.mem_cons

/-- One step of a recorded run keeps the recorded faults. -/
theorem mem_recordStep_faults {s : State} {f : Fault} (h : f ∈ s.faults) : f ∈ (recordStep s).faults := by
  obtain ⟨t, hstep, hrecord⟩ | ⟨g, -, hrecord⟩ | ⟨r, -, hrecord⟩ := recordStep_cases s <;> rw [hrecord]
  · have hfaults : t.faults = s.faults := (congrArg State.faults (step_fixedPart hstep) :)
    exact hfaults ▸ h
  · exact mem_record_faults.mpr (.inr h)
  · exact h

theorem mem_recordRun_faults (n : Nat) {s : State} {f : Fault} (h : f ∈ s.faults) : f ∈ (recordRun n s).faults := by
  induction n generalizing s with
  | zero => exact h
  | succ n ih => exact ih (mem_recordStep_faults h)

/-- Settles O38: a recorded fault stays in the set (`mem_recordRun_faults`), and a final state has none. -/
theorem recordedFaultsPersist : Obligations.RecordedFaultsPersist := by
  intro n s f hf
  have hkept := mem_recordRun_faults n hf
  refine ⟨hkept, fun hfinal => ?_⟩
  obtain ⟨-, -, hnone⟩ := hfinal
  rw [hnone] at hkept
  cases hkept

/-- Settles O37: at a fault the recorded run passes the move over and records it. -/
theorem faultingStepChangesNothingElse : Obligations.FaultingStepChangesNothingElse := by
  intro s f hfault
  have hrecord : recordStep s = s.passMove.record f := by rw [recordStep, hfault]
  rw [hrecord]
  exact ⟨mem_record_faults.mpr (.inl rfl), rfl⟩

/-! ## The canonical form of the stores (R49) -/

/-- The three stores are in canonical form. -/
def StoresWf (s : State) : Prop := Memory.wf s.pal ∧ Memory.wf s.buf ∧ Memory.wf s.fb

theorem hostEffect_storesWf {s t : State} (hwf : StoresWf s) (h : HostEffect s t) : StoresWf t := by
  obtain ⟨hpal, hbuf, hfb⟩ := hwf
  cases h
  case pal _ i _ v => exact ⟨Memory.wf_write hpal i v, hbuf, hfb⟩
  case buf _ j _ v => exact ⟨hpal, Memory.wf_write hbuf j v, hfb⟩
  case commit =>
    change StoresWf (besidesCommands s.commit)
    rw [besidesCommands_commit]
    exact ⟨hpal, hbuf, hfb⟩
  case start =>
    change StoresWf (besidesCommands s.start)
    rw [besidesCommands_start]
    exact ⟨hpal, hbuf, hfb⟩
  case commitStart =>
    change StoresWf (besidesCommands s.commit.start)
    rw [besidesCommands_start, besidesCommands_commit]
    exact ⟨hpal, hbuf, hfb⟩
  all_goals exact ⟨hpal, hbuf, hfb⟩

theorem engineEffect_storesWf {s t : State} (hwf : StoresWf s) (h : EngineEffect s t) : StoresWf t := by
  obtain ⟨hpal, hbuf, hfb⟩ := hwf
  cases h
  case paint => exact ⟨hpal, hbuf, paintBlock_wf hfb _ _ _ _ _⟩
  all_goals exact ⟨hpal, hbuf, hfb⟩

/-- Settles O43: a store changes by `Memory.write` or `paintBlock`, which keep the form, or is emptied by RST. -/
theorem stepKeepsStoresCanonical : Obligations.StepKeepsStoresCanonical := by
  intro s t hpal hbuf hfb hstep
  exact step_kinds (P := StoresWf) (Q := StoresWf) hstep ⟨hpal, hbuf, hfb⟩ (fun _ => ⟨hpal, hbuf, hfb⟩)
    (fun _ _ hu he => hostEffect_storesWf hu he) (fun _ _ hu he => engineEffect_storesWf hu he)
    (fun _ _ hu => ⟨List.Pairwise.nil, List.Pairwise.nil, hu.2.2⟩)
    (fun _ _ _ _ hu _ _ => ⟨hu.1, hu.2.1, Memory.wf_write hu.2.2 _ _⟩)

/-! ## BUSY and DONE (R20) -/

/-- BUSY and DONE do not hold together. -/
def Exclusive (s : State) : Prop := ¬(s.busy = true ∧ s.done = true)

theorem exclusive_of_idle {s : State} (hidle : s.busy = false) : Exclusive s :=
  fun h => Bool.false_ne_true (hidle.symm.trans h.1)

/-- START clears DONE where it sets BUSY (R99). -/
theorem exclusive_start {s : State} (hidle : s.busy = false) : Exclusive s.start := by
  obtain ⟨-, -, h⟩ | ⟨-, h⟩ | ⟨-, e, -, -, h⟩ := s.start_cases <;> rw [h]
  · exact fun hboth => Bool.false_ne_true hboth.2
  · exact exclusive_of_idle hidle
  · exact exclusive_of_idle hidle

@[simp] theorem commit_busy (s : State) : s.commit.busy = s.busy :=
  (congrArg State.busy (besidesCommit_commit s) :)

theorem hostEffect_exclusive {s t : State} (hs : Exclusive s) (h : HostEffect s t) : Exclusive t := by
  cases h
  case commit hidle => exact exclusive_of_idle ((commit_busy s).trans hidle)
  case start hidle => exact exclusive_start hidle
  case commitStart hidle => exact exclusive_start ((commit_busy s).trans hidle)
  all_goals exact hs

theorem engineEffect_exclusive {s t : State} (hs : Exclusive s) (h : EngineEffect s t) : Exclusive t := by
  cases h
  case endOfPayload => exact exclusive_of_idle rfl
  case clamp => exact exclusive_of_idle rfl
  all_goals exact hs

/-- Settles O44: START sets BUSY and clears DONE, and `finish` does the opposite. -/
theorem busyAndDoneStayExclusive : Obligations.BusyAndDoneStayExclusive := by
  intro s t hs hstep
  exact step_kinds (P := Exclusive) (Q := Exclusive) hstep hs (fun _ => hs)
    (fun _ _ hu he => hostEffect_exclusive hu he) (fun _ _ hu he => engineEffect_exclusive hu he)
    (fun _ _ _ => exclusive_of_idle rfl) (fun _ _ _ _ hu _ _ => hu)

/-! ## What a decode reads (R48, R64) -/

/-- The configuration, the geometry, FRAME_SIZE, the palette and the payload of a state. -/
def readByDecode (s : State) : State :=
  { State.reset with
    cfgWidth := s.cfgWidth, cfgHeight := s.cfgHeight, cfgPalSize := s.cfgPalSize, frameSize := s.frameSize
    cfgValid := s.cfgValid, actWidth := s.actWidth, actHeight := s.actHeight, actPalSize := s.actPalSize
    scale := s.scale, xoff := s.xoff, yoff := s.yoff, pal := s.pal, buf := s.buf }

theorem engineEffect_readByDecode {s t : State} (h : EngineEffect s t) : readByDecode t = readByDecode s := by
  cases h <;> simp [readByDecode]

/-- While BUSY, no move but RST changes what a decode reads. -/
theorem step_readByDecode {s t : State} (hbusy : s.busy = true) (hreset : s.pending.head? ≠ some .reset)
    (h : step s = .next t) : readByDecode t = readByDecode s :=
  step_kinds (P := fun u => u.busy = true ∧ readByDecode u = readByDecode s) (Q := (readByDecode · = readByDecode s)) h
    ⟨hbusy, rfl⟩ (fun _ => ⟨hbusy, rfl⟩)
    (fun _ _ hu he => (congrArg readByDecode (hostEffect_busy he hu.1).1 :).trans hu.2)
    (fun _ _ hu he => (engineEffect_readByDecode he).trans hu.2)
    (fun hp => absurd hp hreset) (fun _ _ _ _ hu _ _ => hu.2)

/-- Settles O45: `step_readByDecode`, read field by field. -/
theorem decodeInputsAreConstant : Obligations.DecodeInputsAreConstant := by
  intro s t hbusy hreset hstep
  have h := step_readByDecode hbusy hreset hstep
  exact ⟨(congrArg State.cfgWidth h :), (congrArg State.cfgHeight h :), (congrArg State.cfgPalSize h :),
    (congrArg State.actWidth h :), (congrArg State.actHeight h :), (congrArg State.actPalSize h :),
    (congrArg State.scale h :), (congrArg State.xoff h :), (congrArg State.yoff h :), (congrArg State.frameSize h :),
    (congrArg State.cfgValid h :), (congrArg State.pal h :), (congrArg State.buf h :)⟩

end Sys2Proof.Proofs

/-! # The machine's invariant (10_state.md section 7)

`State.Inv` holds after reset and every kind of move keeps it (R31 to R36, R46 to R48), so every step does; under it the
cursor moves in raster order (R111). -/

namespace Sys2Proof.Proofs

open Sys2Proof.Machine

/-! ## What the parts of the invariant speak of -/

/-- All of a state but what the host alone sees or writes without a decode: WBUSY, the candidate configuration, the fault
set, what is pending, and the reply. The invariant says nothing of those. -/
def invariantView (s : State) : State :=
  { s with
    wbusy := false, cfgWidth := 0, cfgHeight := 0, cfgPalSize := 0, faults := [], pending := [], reply := none }

/-- The parameters and the stores of a state. -/
def storedPart (s : State) : State :=
  { State.reset with
    fbW := s.fbW, fbH := s.fbH, paletteMax := s.paletteMax, bufferMax := s.bufferMax
    pal := s.pal, buf := s.buf, fb := s.fb }

/-- The parameters and the committed configuration of a state. -/
def committedPart (s : State) : State :=
  { State.reset with
    fbW := s.fbW, fbH := s.fbH, paletteMax := s.paletteMax
    cfgValid := s.cfgValid, cfgErr := s.cfgErr
    actWidth := s.actWidth, actHeight := s.actHeight, actPalSize := s.actPalSize
    scale := s.scale, xoff := s.xoff, yoff := s.yoff }

/-- What the engine's registers are held against while BUSY: all of the view but the stores' contents. -/
def decodePart (s : State) : State :=
  { invariantView s with pal := [], buf := [], fb := [] }

section Frames

variable {s t : State}

theorem parametersOk_of_same (h : s.ParametersOk) (hsame : s.SameParameters t) : t.ParametersOk := by
  obtain ⟨hfbW, hfbH, hpal, hbuf⟩ := hsame
  exact ⟨hfbW ▸ h.fbW, hfbH ▸ h.fbH, hpal ▸ h.paletteMax, hbuf ▸ h.bufferMax⟩

theorem storesOk_frame (h : s.StoresOk) (hkept : storedPart t = storedPart s) : t.StoresOk := by
  have hpart : (storedPart s).StoresOk :=
    ⟨h.palRising, h.bufRising, h.fbRising, h.palInside, h.bufInside, h.fbInside⟩
  rw [← hkept] at hpart
  exact ⟨hpart.palRising, hpart.bufRising, hpart.fbRising, hpart.palInside, hpart.bufInside, hpart.fbInside⟩

theorem configOk_frame (h : s.ConfigOk) (hkept : committedPart t = committedPart s) : t.ConfigOk := by
  have hpart : (committedPart s).ConfigOk :=
    ⟨h.width, h.height, h.palSize, h.scale, h.xoff, h.yoff, h.noErr, h.zero⟩
  rw [← hkept] at hpart
  exact ⟨hpart.width, hpart.height, hpart.palSize, hpart.scale, hpart.xoff, hpart.yoff, hpart.noErr, hpart.zero⟩

theorem decodeOk_frame (h : s.DecodeOk) (hkept : decodePart t = decodePart s) : t.DecodeOk := by
  have hpart : (decodePart s).DecodeOk :=
    ⟨h.configured, h.column, h.position, h.pointerEven, h.pointerInFrame, h.frameEven, h.framePositive, h.frameFits,
      h.index, h.noOutcome⟩
  rw [← hkept] at hpart
  exact ⟨hpart.configured, hpart.column, hpart.position, hpart.pointerEven, hpart.pointerInFrame, hpart.frameEven,
    hpart.framePositive, hpart.frameFits, hpart.index, hpart.noOutcome⟩

theorem outcome_frame (h : s.Inv) (hkept : t.done = s.done ∧ t.result = s.result ∧ t.fsErr = s.fsErr) :
    (t.done = true ↔ t.result ≠ .none) ∧ (t.fsErr ≠ .none ↔ t.result = .corrupt) := by
  obtain ⟨hdone, hresult, hfs⟩ := hkept
  rw [hdone, hresult, hfs]
  exact ⟨h.outcome, h.frameError⟩

/-- The invariant speaks of `invariantView` alone. -/
theorem inv_frame (h : s.Inv) (hkept : invariantView t = invariantView s) : t.Inv where
  parameters := parametersOk_of_same h.parameters
    ⟨(congrArg State.fbW hkept :), (congrArg State.fbH hkept :), (congrArg State.paletteMax hkept :),
      (congrArg State.bufferMax hkept :)⟩
  stores := storesOk_frame h.stores (congrArg storedPart hkept :)
  config := configOk_frame h.config (congrArg committedPart hkept :)
  decode hbusy :=
    decodeOk_frame (h.decode ((congrArg State.busy hkept :).symm.trans hbusy)) (congrArg decodePart hkept :)
  idle hidle := (congrArg State.rem hkept :).trans (h.idle ((congrArg State.busy hkept :).symm.trans hidle))
  outcome := (outcome_frame h
    ⟨(congrArg State.done hkept :), (congrArg State.result hkept :), (congrArg State.fsErr hkept :)⟩).1
  frameError := (outcome_frame h
    ⟨(congrArg State.done hkept :), (congrArg State.result hkept :), (congrArg State.fsErr hkept :)⟩).2

end Frames

/-! ## RST (R146) -/

/-- RST leaves an idle VPDEC without a configuration, whose palette and payload are empty. -/
theorem inv_resetBy {s : State} (hparams : s.ParametersOk) (hrising : Memory.wf s.fb)
    (hinside : ∀ p ∈ s.fb, p.1 < s.fbW * s.fbH) : s.resetBy.Inv where
  parameters := parametersOk_of_same hparams ⟨rfl, rfl, rfl, rfl⟩
  stores := ⟨List.Pairwise.nil, List.Pairwise.nil, hrising, nofun, nofun, hinside⟩
  config := ⟨nofun, nofun, nofun, nofun, nofun, nofun, nofun, fun _ => ⟨rfl, rfl, rfl, rfl, rfl, rfl⟩⟩
  decode := nofun
  idle _ := rfl
  outcome := ⟨nofun, fun h => absurd rfl h⟩
  frameError := ⟨fun h => absurd rfl h, nofun⟩

/-- Settles O41: the state after reset is what RST makes of it. -/
theorem resetMeetsInvariant : Obligations.ResetMeetsInvariant :=
  inv_resetBy (s := State.reset) ⟨by decide, by decide, by decide, by decide⟩ List.Pairwise.nil nofun

/-! ## Host operations -/

/-- A move on an idle VPDEC that leaves the run state and the outcome alone keeps the invariant if it keeps the stores
and the configuration in order. -/
theorem inv_of_idle {s t : State} (h : s.Inv) (hidle : s.busy = false) (hparams : s.SameParameters t)
    (hstores : t.StoresOk) (hconfig : t.ConfigOk)
    (hrun : t.busy = s.busy ∧ t.rem = s.rem ∧ t.done = s.done ∧ t.result = s.result ∧ t.fsErr = s.fsErr) : t.Inv := by
  obtain ⟨hbusy, hrem, houtcome⟩ := hrun
  exact {
    parameters := parametersOk_of_same h.parameters hparams
    stores := hstores
    config := hconfig
    decode := fun hb => absurd ((hidle.symm.trans hbusy.symm).trans hb) Bool.false_ne_true
    idle := fun _ => hrem.trans (h.idle hidle)
    outcome := (outcome_frame h houtcome).1
    frameError := (outcome_frame h houtcome).2 }

/-- COMMIT latches a configuration in range with its geometry, or clears it (R98, R116 to R118). -/
theorem configOk_commit {s : State} (hparams : s.ParametersOk) : s.commit.ConfigOk := by
  obtain ⟨hvalid, h⟩ | ⟨e, -, -, h⟩ := s.commit_cases <;> rw [h]
  · obtain ⟨⟨hw, hwfit⟩, ⟨hh, hhfit⟩, hp⟩ := cfgErrOf_eq_none.mp hvalid
    have hside : s.candidateScale ≤ s.fbW := (geoScale_le_min hw hwfit hh hhfit).trans (min_le_left _ _)
    have hscale : (BitVec.ofNat 16 s.candidateScale).toNat = s.candidateScale := stored_whole hparams.fbW hside
    exact {
      width := fun _ => ⟨hw, hwfit⟩
      height := fun _ => ⟨hh, hhfit⟩
      palSize := fun _ => hp
      scale := fun _ => hscale
      xoff := fun _ => by
        rw [State.latchConfig_xoff, State.latchConfig_scale, hscale]
        exact stored_whole hparams.fbW (geoXoff_le _ _ _)
      yoff := fun _ => by
        rw [State.latchConfig_yoff, State.latchConfig_scale, hscale]
        exact stored_whole hparams.fbH (geoYoff_le _ _ _)
      noErr := fun _ => rfl
      zero := nofun }
  · exact ⟨nofun, nofun, nofun, nofun, nofun, nofun, nofun, fun _ => ⟨rfl, rfl, rfl, rfl, rfl, rfl⟩⟩

theorem inv_commit {s : State} (h : s.Inv) (hidle : s.busy = false) : s.commit.Inv := by
  have hkept := besidesCommit_commit s
  refine inv_of_idle h hidle ?_ (storesOk_frame h.stores (congrArg storedPart hkept :)) (configOk_commit h.parameters) ?_
  · exact ⟨(congrArg State.fbW hkept :), (congrArg State.fbH hkept :), (congrArg State.paletteMax hkept :),
      (congrArg State.bufferMax hkept :)⟩
  · exact ⟨(congrArg State.busy hkept :), (congrArg State.rem hkept :), (congrArg State.done hkept :),
      (congrArg State.result hkept :), (congrArg State.fsErr hkept :)⟩

/-- A decode that an accepted START begins is in order (R99, R110). -/
theorem decodeOk_beginDecode {s : State} (h : s.Inv) (hvalid : s.cfgValid = true)
    (hsize : fsErrOf s.bufferMax s.frameSize.toNat = .none) : s.beginDecode.DecodeOk := by
  obtain ⟨hpos, heven, hfits⟩ := fsErrOf_eq_none.mp hsize
  exact {
    configured := hvalid
    column := (h.config.width hvalid).1
    position := by simp [State.linear]
    pointerEven := rfl
    pointerInFrame := Nat.zero_le _
    frameEven := heven
    framePositive := hpos
    frameFits := hfits
    index := fun hrem => absurd rfl hrem
    noOutcome := ⟨rfl, rfl, rfl⟩ }

/-- A refused START records an outcome on an idle VPDEC (R99, R128, R130). -/
theorem inv_refuseStart {s : State} (h : s.Inv) (hidle : s.busy = false) {r : Result} {e : FsErr} (hr : r ≠ .none)
    (hcorrupt : e ≠ .none ↔ r = .corrupt) : (s.refuseStart r e).Inv where
  parameters := parametersOk_of_same h.parameters ⟨rfl, rfl, rfl, rfl⟩
  stores := storesOk_frame h.stores rfl
  config := configOk_frame h.config rfl
  decode hbusy := absurd (hidle.symm.trans hbusy) Bool.false_ne_true
  idle _ := h.idle hidle
  outcome := ⟨fun _ => hr, fun _ => rfl⟩
  frameError := hcorrupt

theorem inv_start {s : State} (h : s.Inv) (hidle : s.busy = false) : s.start.Inv := by
  obtain ⟨hvalid, hsize, hstart⟩ | ⟨-, hstart⟩ | ⟨-, e, -, he, hstart⟩ := s.start_cases <;> rw [hstart]
  · exact {
      parameters := parametersOk_of_same h.parameters ⟨rfl, rfl, rfl, rfl⟩
      stores := storesOk_frame h.stores rfl
      config := configOk_frame h.config rfl
      decode := fun _ => decodeOk_beginDecode h hvalid hsize
      idle := fun _ => rfl
      outcome := ⟨nofun, fun hne => absurd rfl hne⟩
      frameError := ⟨fun hne => absurd rfl hne, nofun⟩ }
  · exact inv_refuseStart h hidle nofun ⟨fun hne => absurd rfl hne, nofun⟩
  · exact inv_refuseStart h hidle nofun ⟨fun _ => rfl, fun _ => he⟩

theorem hostEffect_inv {s t : State} (h : s.Inv) (heffect : HostEffect s t) : t.Inv := by
  obtain ⟨hpal, hbuf, hfb, hpalIn, hbufIn, hfbIn⟩ := h.stores
  cases heffect
  case pal hidle i hi v =>
    exact inv_of_idle h hidle ⟨rfl, rfl, rfl, rfl⟩
      ⟨Memory.wf_write hpal i v, hbuf, hfb, Memory.write_below hpalIn v hi, hbufIn, hfbIn⟩
      (configOk_frame h.config rfl) ⟨rfl, rfl, rfl, rfl, rfl⟩
  case buf hidle j hj v =>
    exact inv_of_idle h hidle ⟨rfl, rfl, rfl, rfl⟩
      ⟨hpal, Memory.wf_write hbuf j v, hfb, hpalIn, Memory.write_below hbufIn v hj, hfbIn⟩
      (configOk_frame h.config rfl) ⟨rfl, rfl, rfl, rfl, rfl⟩
  case frameSize hidle v =>
    exact inv_of_idle h hidle ⟨rfl, rfl, rfl, rfl⟩ (storesOk_frame h.stores rfl) (configOk_frame h.config rfl)
      ⟨rfl, rfl, rfl, rfl, rfl⟩
  case commit hidle => exact inv_commit h hidle
  case start hidle => exact inv_start h hidle
  case commitStart hidle => exact inv_start (inv_commit h hidle) ((commit_busy s).trans hidle)
  all_goals exact inv_frame h rfl

/-! ## The engine's steps -/

/-- The row stays far below 2^32: the position exceeds the canvas by at most 255 pixels for each run (R38, R46). -/
theorem row_bound {s : State} (h : s.Inv) (hbusy : s.busy = true) : s.py.toNat + 255 < 2 ^ 32 := by
  have hd := h.decode hbusy
  have hposition : s.py.toNat * s.actWidth.toNat ≤ s.actWidth.toNat * s.actHeight.toNat + 255 * (s.rp.toNat / 2) :=
    (Nat.le_add_right _ _).trans hd.position
  have hwidth : 1 ≤ s.actWidth.toNat := Nat.one_le_of_lt hd.column
  have hheight := s.actHeight.isLt
  have hruns : s.rp.toNat / 2 ≤ 16384 := by
    have hpointer := hd.pointerInFrame.trans (hd.frameFits.trans h.parameters.bufferMax.2)
    omega
  have hrow : s.py.toNat ≤ s.actHeight.toNat + 255 * (s.rp.toNat / 2) := by
    refine Nat.le_of_mul_le_mul_right (hposition.trans ?_) hwidth
    rw [Nat.add_mul, Nat.mul_comm s.actWidth.toNat]
    exact Nat.add_le_add_left (Nat.le_mul_of_pos_right _ hwidth) _
  omega

/-- The end of a decode leaves an idle VPDEC with the outcome END or CLAMP (R103). -/
theorem inv_finish {s : State} (h : s.Inv) (hbusy : s.busy = true) {code : Result} (hnone : code ≠ .none)
    (hcorrupt : code ≠ .corrupt) : (s.finish code).Inv where
  parameters := parametersOk_of_same h.parameters ⟨rfl, rfl, rfl, rfl⟩
  stores := storesOk_frame h.stores rfl
  config := configOk_frame h.config rfl
  decode := nofun
  idle _ := rfl
  outcome := ⟨fun _ => hnone, fun _ => rfl⟩
  frameError := by
    obtain ⟨-, -, hfs⟩ := (h.decode hbusy).noOutcome
    exact ⟨fun hne => absurd hfs hne, fun heq => absurd heq hcorrupt⟩

/-- An engine step that goes on with the decode keeps the invariant if it keeps the decode and the stores in order. -/
theorem inv_of_decoding {s t : State} (h : s.Inv) (hbusy : s.busy = true) (hkept : decodeInputs t = decodeInputs s)
    (hstores : t.StoresOk) (hdecode : t.DecodeOk) : t.Inv where
  parameters := parametersOk_of_same h.parameters
    ⟨(congrArg State.fbW hkept :), (congrArg State.fbH hkept :), (congrArg State.paletteMax hkept :),
      (congrArg State.bufferMax hkept :)⟩
  stores := hstores
  config := configOk_frame h.config (congrArg committedPart hkept :)
  decode _ := hdecode
  idle hidle := absurd (hidle.symm.trans ((congrArg State.busy hkept :).trans hbusy)) Bool.false_ne_true
  outcome := (outcome_frame h
    ⟨(congrArg State.done hkept :), (congrArg State.result hkept :), (congrArg State.fsErr hkept :)⟩).1
  frameError := (outcome_frame h
    ⟨(congrArg State.done hkept :), (congrArg State.result hkept :), (congrArg State.fsErr hkept :)⟩).2

/-- A whole run lies between RP and the end of the payload (R47). -/
theorem passRun_rp {s : State} (hd : s.DecodeOk) (hrp : s.rp ≠ s.frameSize) :
    s.passRun.rp.toNat = s.rp.toNat + 2 ∧ s.rp.toNat + 2 ≤ s.frameSize.toNat := by
  have hne : s.rp.toNat ≠ s.frameSize.toNat := fun heq => hrp (BitVec.eq_of_toNat_eq heq)
  have hle := hd.pointerInFrame
  have heven := hd.pointerEven
  have hframe := hd.frameEven
  have hlt := s.frameSize.isLt
  have hfits : s.rp.toNat + 2 ≤ s.frameSize.toNat := by omega
  refine ⟨?_, hfits⟩
  rw [State.passRun_rp, BitVec.toNat_add, show (2 : Word).toNat = 2 from rfl, Nat.mod_eq_of_lt (by omega)]

/-- FETCH of a RUN keeps the decode in order (R105, R106). -/
theorem decodeOk_fetchRun {s : State} (hd : s.DecodeOk) (hrp : s.rp ≠ s.frameSize) {c i : Byte}
    (hlt : i.toNat < s.actPalSize.toNat) : (s.passRun.loadRun c i).DecodeOk := by
  obtain ⟨hnext, hfits⟩ := passRun_rp hd hrp
  have heven := hd.pointerEven
  have hposition := hd.position
  exact {
    configured := hd.configured
    column := hd.column
    position := by
      change s.linear ≤ s.actWidth.toNat * s.actHeight.toNat + 255 * (s.passRun.rp.toNat / 2)
      omega
    pointerEven := by
      change s.passRun.rp.toNat % 2 = 0
      omega
    pointerInFrame := hnext.trans_le hfits
    frameEven := hd.frameEven
    framePositive := hd.framePositive
    frameFits := hd.frameFits
    index := fun hne => by
      have hcount : c ≠ 0 := hne
      rw [State.loadRun, if_neg hcount]
      exact hlt
    noOutcome := hd.noOutcome }

/-- FETCH of a SKIP moves the cursor by the run's count (R107, R111). -/
theorem skip_linear {s : State} (hcolumn : s.px.toNat < s.actWidth.toNat) (hrow : s.py.toNat + 255 < 2 ^ 32) (c : Byte) :
    (s.passRun.advance c.toNat).linear = s.linear + c.toNat := by
  have hcount := c.isLt
  rw [State.advance_linear (s := s.passRun) c.toNat hcolumn (by rw [State.passRun_py]; omega), State.linear_passRun]

/-- FETCH of a SKIP keeps the decode in order: it adds at most 255 pixels to the position for its two bytes (R107). -/
theorem decodeOk_fetchSkip {s : State} (hd : s.DecodeOk) (hrow : s.py.toNat + 255 < 2 ^ 32) (hrem : s.rem = 0)
    (hrp : s.rp ≠ s.frameSize) (c : Byte) : (s.passRun.advance c.toNat).DecodeOk := by
  obtain ⟨hnext, hfits⟩ := passRun_rp hd hrp
  have hcount := c.isLt
  have heven := hd.pointerEven
  have hposition := hd.position
  exact {
    configured := hd.configured
    column := advance_column_lt (s := s.passRun) c.toNat hd.column
    position := by
      rw [skip_linear hd.column hrow]
      change s.linear + c.toNat ≤ s.actWidth.toNat * s.actHeight.toNat + 255 * (s.passRun.rp.toNat / 2)
      omega
    pointerEven := by
      change s.passRun.rp.toNat % 2 = 0
      omega
    pointerInFrame := hnext.trans_le hfits
    frameEven := hd.frameEven
    framePositive := hd.framePositive
    frameFits := hd.frameFits
    index := fun hne => absurd hrem hne
    noOutcome := hd.noOutcome }

/-- A pixel inside the canvas is at a position below the canvas's size (R46). -/
theorem linear_lt_canvas {s : State} (hcolumn : s.px.toNat < s.actWidth.toNat) (hrow : s.py.toNat < s.actHeight.toNat) :
    s.linear < s.actWidth.toNat * s.actHeight.toNat :=
  pixelIndex_lt hcolumn hrow

/-- PAINT moves the cursor one pixel forward (R108, R111). -/
theorem paint_linear {s : State} (hcolumn : s.px.toNat < s.actWidth.toNat) (hrow : s.py.toNat < s.actHeight.toNat)
    (c : Half) : ((s.blit s.px.toNat s.py.toNat c).advance 1).countPixel.linear = s.linear + 1 := by
  have hheight := s.actHeight.isLt
  have hlinear := State.advance_linear (s := s.blit s.px.toNat s.py.toNat c) 1 hcolumn (by simp; omega)
  rw [State.linear_countPixel, hlinear, State.linear_blit]

/-- PAINT keeps the decode in order (R108). -/
theorem decodeOk_paint {s : State} (hd : s.DecodeOk) (hrem : s.rem ≠ 0) (hrow : s.py.toNat < s.actHeight.toNat)
    (colour : Half) : ((s.blit s.px.toNat s.py.toNat colour).advance 1).countPixel.DecodeOk where
  configured := by simpa using hd.configured
  column := advance_column_lt (s := s.blit s.px.toNat s.py.toNat colour) 1 hd.column
  position := by
    have hcanvas : s.linear + 1 ≤ s.actWidth.toNat * s.actHeight.toNat := linear_lt_canvas hd.column hrow
    rw [paint_linear hd.column hrow]
    simpa using hcanvas.trans (Nat.le_add_right _ (255 * (s.rp.toNat / 2)))
  pointerEven := by simpa using hd.pointerEven
  pointerInFrame := by simpa using hd.pointerInFrame
  frameEven := by simpa using hd.frameEven
  framePositive := by simpa using hd.framePositive
  frameFits := by simpa using hd.frameFits
  index _ := by simpa using hd.index hrem
  noOutcome := by simpa using hd.noOutcome

/-- PAINT keeps the framebuffer's store in order: the block lies in the framebuffer (R49, R124). -/
theorem storesOk_blit {s : State} (h : s.Inv) (hbusy : s.busy = true) (hrow : s.py.toNat < s.actHeight.toNat)
    (colour : Half) : (s.blit s.px.toNat s.py.toNat colour).StoresOk := by
  have hd := h.decode hbusy
  obtain ⟨hpal, hbuf, hfb, hpalIn, hbufIn, hfbIn⟩ := h.stores
  refine ⟨hpal, hbuf, paintBlock_wf hfb _ _ _ _ _, hpalIn, hbufIn,
    paintBlock_below hfbIn _ _ _ _ _ fun dy hdy dx hdx => ?_⟩
  have himage : InImage s (blockX s s.px.toNat + dx) (blockY s s.py.toNat + dy) :=
    inImage_of_inBlock hd.column hrow ⟨by omega, by omega, by omega, by omega⟩
  obtain ⟨hx, hy⟩ := inFramebuffer_of_inImage h.config hd.configured himage
  exact pixelIndex_lt hx hy

theorem engineEffect_inv {s t : State} (h : s.Inv) (heffect : EngineEffect s t) : t.Inv := by
  cases heffect
  case idle => exact h
  case endOfPayload hbusy _ _ => exact inv_finish h hbusy nofun nofun
  case clamp hbusy _ _ => exact inv_finish h hbusy nofun nofun
  case fetchRun hbusy _ hrp c i _ _ hlt =>
    exact inv_of_decoding h hbusy (by simp) (storesOk_frame h.stores (by simp [storedPart])) (decodeOk_fetchRun (h.decode hbusy) hrp hlt)
  case fetchSkip hbusy hrem hrp c i _ _ _ =>
    exact inv_of_decoding h hbusy (by simp) (storesOk_frame h.stores (by simp [storedPart]))
      (decodeOk_fetchSkip (h.decode hbusy) (row_bound h hbusy) hrem hrp c)
  case paint hbusy hrem hrow c _ =>
    exact inv_of_decoding h hbusy (by simp)
      (storesOk_frame (storesOk_blit h hbusy hrow c) (by simp [storedPart])) (decodeOk_paint (h.decode hbusy) hrem hrow c)

/-! ## Every step -/

/-- Another agent's write of a pixel of the framebuffer keeps the invariant (R45). -/
theorem inv_putPixel {s : State} (h : s.Inv) {x y : Nat} (hx : x < s.fbW) (hy : y < s.fbH) (c : Half) :
    (s.putPixel x y c).Inv := by
  obtain ⟨hpal, hbuf, hfb, hpalIn, hbufIn, hfbIn⟩ := h.stores
  exact {
    parameters := parametersOk_of_same h.parameters ⟨rfl, rfl, rfl, rfl⟩
    stores := ⟨hpal, hbuf, Memory.wf_write hfb _ c, hpalIn, hbufIn, Memory.write_below hfbIn c (pixelIndex_lt hx hy)⟩
    config := configOk_frame h.config rfl
    decode := fun hbusy => decodeOk_frame (h.decode hbusy) rfl
    idle := h.idle
    outcome := h.outcome
    frameError := h.frameError }

theorem step_inv {s t : State} (h : s.Inv) (hstep : step s = .next t) : t.Inv :=
  step_kinds (P := State.Inv) (Q := State.Inv) hstep h (fun _ => inv_frame h rfl) (fun _ _ => hostEffect_inv)
    (fun _ _ => engineEffect_inv) (fun _ _ hu => inv_resetBy hu.parameters hu.stores.fbRising hu.stores.fbInside)
    (fun _ _ _ c hu hx hy => inv_putPixel hu hx hy c)

/-- Settles O42: each kind of move keeps the invariant, and none writes a parameter. -/
theorem stepKeepsInvariant : Obligations.StepKeepsInvariant :=
  fun _ _ h hstep => ⟨step_inv h hstep, step_sameParameters hstep⟩

end Sys2Proof.Proofs

/-! # The engine's faults, what a step paints, and where the cursor goes (41_rle_engine.md section 4)

When an engine step meets an unwritten cell (R44), why host operations cannot disturb it (R64, R82), which step changes a
framebuffer pixel (R113), and how far each step moves the cursor (R111). -/

namespace Sys2Proof.Proofs

open Sys2Proof.Machine

/-! ## The engine's faults (R44) -/

/-- The faults an engine step can end in: FETCH of an unwritten count or index, PAINT with an unwritten colour. -/
inductive EngineFault (s : State) : Fault → Prop
  | count (hbusy : s.busy = true) (hrem : s.rem = 0) (hrp : s.rp ≠ s.frameSize)
    (hcount : Memory.read s.buf s.rp.toNat = none) : EngineFault s (.unwritten .buf s.rp.toNat)
  | index (hbusy : s.busy = true) (hrem : s.rem = 0) (hrp : s.rp ≠ s.frameSize)
    (hcount : Memory.read s.buf s.rp.toNat ≠ none) (hindex : Memory.read s.buf (s.rp.toNat + 1) = none) :
    EngineFault s (.unwritten .buf (s.rp.toNat + 1))
  | colour (hbusy : s.busy = true) (hrem : s.rem ≠ 0) (hrow : s.py.toNat < s.actHeight.toNat)
    (hcolour : Memory.read s.pal s.cidx.toNat = none) : EngineFault s (.unwritten .pal s.cidx.toNat)

theorem engineStep_of_engineFault {s : State} {f : Fault} (h : EngineFault s f) : engineStep s = .fault f := by
  cases h with
  | count hbusy hrem hrp hcount =>
    rw [engineStep_fetch hbusy hrem hrp]
    simp [engineFetch, hcount, raiseUnwritten]
  | index hbusy hrem hrp hcount hindex =>
    obtain ⟨c, hc⟩ := Option.ne_none_iff_exists'.mp hcount
    rw [engineStep_fetch hbusy hrem hrp]
    simp [engineFetch, hc, hindex, raiseUnwritten]
  | colour hbusy hrem hrow hcolour =>
    rw [engineStep_paint hbusy hrem hrow]
    simp [enginePaint, hcolour, raiseUnwritten]

/-- An engine step has an effect or meets an unwritten cell. -/
theorem engineEffect_or_engineFault (s : State) : (∃ t, EngineEffect s t) ∨ ∃ f, EngineFault s f := by
  by_cases hbusy : s.busy = true
  · by_cases hrem : s.rem = 0
    · by_cases hrp : s.rp = s.frameSize
      · exact .inl ⟨_, .endOfPayload hbusy hrem hrp⟩
      · cases hc : Memory.read s.buf s.rp.toNat with
        | none => exact .inr ⟨_, .count hbusy hrem hrp hc⟩
        | some c =>
          cases hi : Memory.read s.buf (s.rp.toNat + 1) with
          | none => exact .inr ⟨_, .index hbusy hrem hrp (hc ▸ Option.some_ne_none c) hi⟩
          | some i =>
            obtain hlt | hle := Nat.lt_or_ge i.toNat s.actPalSize.toNat
            · exact .inl ⟨_, .fetchRun hbusy hrem hrp hc hi hlt⟩
            · exact .inl ⟨_, .fetchSkip hbusy hrem hrp hc hi hle⟩
    · obtain hrow | hrow := Nat.lt_or_ge s.py.toNat s.actHeight.toNat
      · cases hpal : Memory.read s.pal s.cidx.toNat with
        | none => exact .inr ⟨_, .colour hbusy hrem hrow hpal⟩
        | some c => exact .inl ⟨_, .paint hbusy hrem hrow hpal⟩
      · exact .inl ⟨_, .clamp hbusy hrem hrow⟩
  · exact .inl ⟨s, .idle (Bool.not_eq_true _ ▸ hbusy)⟩

/-- Each effect is what the engine step answers. -/
theorem engineStep_of_engineEffect {s t : State} (h : EngineEffect s t) : engineStep s = .next t := by
  cases h with
  | idle hidle => exact engineStep_idle hidle
  | endOfPayload hbusy hrem hrp => exact engineStep_end hbusy hrem hrp
  | fetchRun hbusy hrem hrp hc hi hlt => exact (engineStep_fetch hbusy hrem hrp).trans (engineFetch_run hc hi hlt)
  | fetchSkip hbusy hrem hrp hc hi hle => exact (engineStep_fetch hbusy hrem hrp).trans (engineFetch_skip hc hi hle)
  | clamp hbusy hrem hrow => exact engineStep_clamp hbusy hrem hrow
  | paint hbusy hrem hrow hpal => exact (engineStep_paint hbusy hrem hrow).trans (enginePaint_written hpal)

theorem engineStep_eq_fault_iff {s : State} {f : Fault} : engineStep s = .fault f ↔ EngineFault s f := by
  refine ⟨fun h => ?_, engineStep_of_engineFault⟩
  obtain ⟨t, heffect⟩ | ⟨g, hfault⟩ := engineEffect_or_engineFault s
  · cases h.symm.trans (engineStep_of_engineEffect heffect)
  · cases h.symm.trans (engineStep_of_engineFault hfault)
    exact hfault

/-- Settles O15: the three clauses are the three cases of `EngineFault`. -/
theorem engineFaultsOnUnwrittenCells : Obligations.EngineFaultsOnUnwrittenCells := by
  refine fun s hbusy => ⟨fun hrem hrp => ⟨fun hcount => ?_, fun hcount hindex => ?_⟩, fun hrem hrow hcolour => ?_⟩
  · exact engineStep_of_engineFault (.count hbusy hrem hrp hcount)
  · exact engineStep_of_engineFault (.index hbusy hrem hrp hcount hindex)
  · exact engineStep_of_engineFault (.colour hbusy hrem hrow hcolour)

/-! ## A host operation does not disturb the engine (R64, R82) -/

/-- The faults of the engine do not depend on the surroundings. -/
theorem engineFault_around {s : State} {f : Fault} (h : EngineFault s f) (r : State) : EngineFault (around s r) f := by
  cases h with
  | count hbusy hrem hrp hcount => exact .count (s := around s r) hbusy hrem hrp hcount
  | index hbusy hrem hrp hcount hindex => exact .index (s := around s r) hbusy hrem hrp hcount hindex
  | colour hbusy hrem hrow hcolour => exact .colour (s := around s r) hbusy hrem hrow hcolour

/-- States with the same view meet the same fault in the engine's step. -/
theorem engineStep_fault_of_engineView {s r : State} {f : Fault} (hview : r.engineView = s.engineView)
    (h : engineStep s = .fault f) : engineStep r = .fault f := by
  rw [engineStep_eq_fault_iff] at h ⊢
  rw [eq_around_of_engineView hview]
  exact engineFault_around h r

/-- Settles O47: a host operation while BUSY keeps the view (`hostEffect_busy`), and the engine's step, next state or
fault, depends on the view alone. -/
theorem hostCannotDisturbDecode : Obligations.HostCannotDisturbDecode := by
  intro s t x hbusy hexec
  obtain ⟨hview, -⟩ := hostEffect_busy (exec_decodeTxn_effect hexec) hbusy
  refine ⟨hview, fun f => ⟨engineStep_fault_of_engineView hview, engineStep_fault_of_engineView hview.symm⟩,
    fun u hu => ⟨around u t, engineStep_of_engineView hview hu, rfl⟩⟩

/-! ## Which step changes a pixel (R113) -/

/-- A pixel is read from the framebuffer by the framebuffer's width. -/
theorem pixel_congr {s t : State} (hfb : t.fb = s.fb) (hfbW : t.fbW = s.fbW) (x y : Nat) :
    t.pixel x y = s.pixel x y := by
  rw [State.pixel, State.pixel, hfb, hfbW]

/-- A pixel after another agent's write (R45). -/
theorem putPixel_pixel_of_ne {s : State} {x y x' y' : Nat} (c : Half) (hx : x < s.fbW) (hx' : x' < s.fbW)
    (hne : (s.putPixel x' y' c).pixel x y ≠ s.pixel x y) : x' = x ∧ y' = y := by
  by_contra hother
  refine hne ?_
  have hindex : pixelIndex s.fbW x y ≠ pixelIndex s.fbW x' y' := fun heq => hother (pixelIndex_inj hx' hx heq.symm)
  simp only [State.pixel, State.putPixel_fb, State.putPixel_fbW, Memory.read_write_other _ _ hindex]

/-- The engine changes a pixel only by PAINT, and only in the cursor's block (R108, R122). -/
theorem engineEffect_pixel {s t : State} (hinv : s.Inv) (h : EngineEffect s t) {x y : Nat} (hx : x < s.fbW)
    (hne : t.pixel x y ≠ s.pixel x y) :
    s.busy = true ∧ s.rem ≠ 0 ∧ s.py.toNat < s.actHeight.toNat ∧ InBlock s s.px.toNat s.py.toNat x y := by
  cases h
  case paint hbusy hrem hrow c _ =>
    have hd := hinv.decode hbusy
    refine ⟨hbusy, hrem, hrow, by_contra fun hout => hne ?_⟩
    rw [countPixel_pixel, advance_pixel, State.blit_pixel s hinv.stores.fbRising _ _ c
      (block_fits_columns hinv.config hd.configured hd.column) x y hx, if_neg hout]
  all_goals exact absurd rfl hne

/-- Settles O48: host operations and RST keep the framebuffer, another agent writes one pixel, and of the engine's steps
only PAINT draws (`engineEffect_pixel`). -/
theorem pixelsChangeOnlyWhenPainted : Obligations.PixelsChangeOnlyWhenPainted := by
  intro s t x y hinv hstep hx hne
  obtain ⟨hp, h⟩ | ⟨rest, hp, h⟩ | ⟨txn, rest, -, h⟩ | ⟨rest, -, rfl⟩ | ⟨rest, -, rfl⟩ | ⟨x', y', c, rest, hp, rfl⟩ |
    ⟨rest, -, rfl⟩ := step_cases hstep
  case inl => exact .inl ⟨.inl hp, engineEffect_pixel hinv (engineStep_effect h) hx hne⟩
  case inr.inl =>
    have hinv' : ({ s with pending := rest } : State).Inv := inv_frame hinv rfl
    exact .inl ⟨.inr (congrArg List.head? hp), engineEffect_pixel hinv' (engineStep_effect h) hx hne⟩
  case inr.inr.inl =>
    obtain ⟨hfixed, hfb⟩ := hostEffect_fixedPart (exec_decodeTxn_effect (s := { s with pending := rest }) h)
    exact absurd (pixel_congr hfb (congrArg State.fbW hfixed :) x y) hne
  case inr.inr.inr.inl => exact absurd rfl hne
  case inr.inr.inr.inr.inl => exact absurd rfl hne
  case inr.inr.inr.inr.inr.inl =>
    split_ifs at hne with hin
    · obtain ⟨rfl, rfl⟩ := putPixel_pixel_of_ne (s := { s with pending := rest }) c hx hin.1 hne
      exact .inr ⟨c, congrArg List.head? hp, hin.2⟩
    · exact absurd rfl hne
  case inr.inr.inr.inr.inr.inr => exact absurd rfl hne

/-! ## Where an engine step leaves the cursor (R111) -/

/-- Settles O50: the clauses are the effects of the engine's step while BUSY, with `paint_linear` and `skip_linear`. -/
theorem cursorMovesInRasterOrder : Obligations.CursorMovesInRasterOrder := by
  intro s t hinv hbusy hstep
  cases engineStep_effect hstep with
  | idle hidle => exact absurd (hidle.symm.trans hbusy) Bool.false_ne_true
  | endOfPayload _ hrem hrp =>
    exact ⟨fun hne => absurd hrem hne, fun hne => absurd hrem hne, fun _ _ => rfl, fun _ hne => absurd hrp hne⟩
  | fetchRun _ hrem hrp hc hi hlt =>
    refine ⟨fun hne => absurd hrem hne, fun hne => absurd hrem hne, fun _ heq => absurd heq hrp,
      fun _ _ => ⟨_, _, hc, hi, ?_⟩⟩
    rw [if_pos hlt]
    rfl
  | fetchSkip _ hrem hrp hc hi hle =>
    refine ⟨fun hne => absurd hrem hne, fun hne => absurd hrem hne, fun _ heq => absurd heq hrp,
      fun _ _ => ⟨_, _, hc, hi, ?_⟩⟩
    rw [if_neg (Nat.not_lt.mpr hle), skip_linear (hinv.decode hbusy).column (row_bound hinv hbusy)]
  | clamp _ hrem hrow =>
    exact ⟨fun _ hlt => absurd hrow (Nat.not_le.mpr hlt), fun _ _ => rfl, fun hzero => absurd hzero hrem,
      fun hzero => absurd hzero hrem⟩
  | paint _ hrem hrow hpal =>
    exact ⟨fun _ _ => paint_linear (hinv.decode hbusy).column hrow _, fun _ hge => absurd hrow (Nat.not_lt.mpr hge),
      fun hzero => absurd hzero hrem, fun hzero => absurd hzero hrem⟩

end Sys2Proof.Proofs

/-! # Every decode finishes (41_rle_engine.md section 4)

Each step of a recorded run while BUSY is an engine step that brings the end of the decode nearer (`stepsLeft`), or a
step of the surroundings that uses up what is pending (`budget`), so every decode whose cells are written finishes (R114,
R115). -/

namespace Sys2Proof.Proofs

open Sys2Proof.Machine

/-! ## An engine step brings the end nearer (R114) -/

/-- A decode in progress that will meet no unwritten cell. -/
structure Decoding (s : State) : Prop where
  inv : s.Inv
  busy : s.busy = true
  loaded : s.Loaded

/-- A decode that has come to its end (R103). -/
def Finished (s : State) : Prop :=
  s.busy = false ∧ s.done = true ∧ (s.result = .endOfPayload ∨ s.result = .clamp)

/-- A bound on the engine steps a decode has left: a FETCH for each run ahead, a PAINT for each pixel of the canvas from
the cursor on, and the last step. -/
def stepsLeft (s : State) : Nat :=
  (s.frameSize.toNat - s.rp.toNat) / 2 + (s.actWidth.toNat * s.actHeight.toNat - s.linear) + 1

theorem stepsLeft_pos (s : State) : 0 < stepsLeft s := Nat.succ_pos _

theorem loaded_frame {s t : State} (h : s.Loaded) (hkept : readByDecode t = readByDecode s) : t.Loaded := by
  have hpart : (readByDecode s).Loaded := ⟨h.payload, h.palette⟩
  rw [← hkept] at hpart
  exact ⟨hpart.payload, hpart.palette⟩

theorem Decoding.of_engineView {s t : State} (h : Decoding s) (hview : t.engineView = s.engineView) : Decoding t where
  inv := inv_frame h.inv (congrArg invariantView hview :)
  busy := busy_of_engineView hview h.busy
  loaded := loaded_frame h.loaded (congrArg readByDecode hview :)

/-- A decode in progress meets no unwritten cell (R144). -/
theorem Decoding.not_engineFault {s : State} (h : Decoding s) {f : Fault} (hfault : EngineFault s f) : False := by
  have hd := h.inv.decode h.busy
  cases hfault with
  | count _ _ hrp hcount =>
    obtain ⟨-, hfits⟩ := passRun_rp hd hrp
    have hwritten := h.loaded.payload s.rp.toNat (by omega)
    rw [hcount] at hwritten
    cases hwritten
  | index _ _ hrp _ hindex =>
    obtain ⟨-, hfits⟩ := passRun_rp hd hrp
    have hwritten := h.loaded.payload (s.rp.toNat + 1) (by omega)
    rw [hindex] at hwritten
    cases hwritten
  | colour _ hrem _ hcolour =>
    have hwritten := h.loaded.palette s.cidx.toNat (hd.index hrem)
    rw [hcolour] at hwritten
    cases hwritten

/-- An engine step of a decode in progress ends it or leaves fewer steps. -/
theorem engineEffect_progress {s t : State} (h : Decoding s) (heffect : EngineEffect s t) :
    Finished t ∨ Decoding t ∧ stepsLeft t < stepsLeft s := by
  have hd := h.inv.decode h.busy
  have hinv := engineEffect_inv h.inv heffect
  have hloaded := loaded_frame h.loaded (engineEffect_readByDecode heffect)
  cases heffect with
  | idle hidle => exact absurd (hidle.symm.trans h.busy) Bool.false_ne_true
  | endOfPayload => exact .inl ⟨rfl, rfl, .inl rfl⟩
  | clamp => exact .inl ⟨rfl, rfl, .inr rfl⟩
  | @fetchRun hbusy hrem hrp c i =>
    obtain ⟨hnext, hfits⟩ := passRun_rp hd hrp
    refine .inr ⟨⟨hinv, hbusy, hloaded⟩, ?_⟩
    change (s.frameSize.toNat - s.passRun.rp.toNat) / 2 + (s.actWidth.toNat * s.actHeight.toNat - s.linear) + 1 <
      stepsLeft s
    rw [stepsLeft]
    omega
  | @fetchSkip hbusy hrem hrp c i =>
    obtain ⟨hnext, hfits⟩ := passRun_rp hd hrp
    refine .inr ⟨⟨hinv, hbusy, hloaded⟩, ?_⟩
    rw [stepsLeft, skip_linear hd.column (row_bound h.inv hbusy)]
    change (s.frameSize.toNat - s.passRun.rp.toNat) / 2 +
      (s.actWidth.toNat * s.actHeight.toNat - (s.linear + c.toNat)) + 1 < stepsLeft s
    rw [stepsLeft]
    omega
  | @paint hbusy hrem hrow c =>
    have hcanvas := linear_lt_canvas hd.column hrow
    refine .inr ⟨⟨hinv, hbusy, hloaded⟩, ?_⟩
    rw [stepsLeft, paint_linear hd.column hrow]
    change (s.frameSize.toNat - s.rp.toNat) / 2 + (s.actWidth.toNat * s.actHeight.toNat - (s.linear + 1)) + 1 <
      stepsLeft s
    rw [stepsLeft]
    omega

theorem engineStep_progress {s : State} (h : Decoding s) :
    ∃ u, engineStep s = .next u ∧ (Finished u ∨ Decoding u ∧ stepsLeft u < stepsLeft s) := by
  obtain ⟨u, heffect⟩ | ⟨f, hfault⟩ := engineEffect_or_engineFault s
  · exact ⟨u, engineStep_of_engineEffect heffect, engineEffect_progress h heffect⟩
  · exact (h.not_engineFault hfault).elim

/-! ## Every step of the recorded run brings the end nearer -/

/-- A bound on the steps of a recorded run until the decode ends: one for each pending event, and two for each engine
step, of which a POLL may take one; an engine's turn at the head of what is pending is not counted twice more. -/
def budget (s : State) : Nat :=
  s.pending.length + 2 * stepsLeft s - if s.pending.head? = some .engine then 2 else 0

theorem budget_le (s : State) : budget s ≤ s.pending.length + 2 * stepsLeft s := Nat.sub_le _ _

theorem budget_pos (s : State) : 0 < budget s := by
  have hsteps := stepsLeft_pos s
  unfold budget
  split_ifs with hturn
  · obtain ⟨rest, hp⟩ := List.head?_eq_some_iff.mp hturn
    rw [hp, List.length_cons]
    omega
  · omega

/-- How many engine steps the next step of a recorded run while BUSY is. -/
def engineTurn (s : State) : Nat := if s.engineHasTurn then 1 else 0

/-- What a step of the recorded run of a decode comes to: its end, or a decode with less ahead of it. -/
def Progress (s t : State) : Prop :=
  Finished t ∨ Decoding t ∧ .reset ∉ t.pending ∧ stepsLeft t + engineTurn s ≤ stepsLeft s ∧ budget t < budget s

theorem finished_of_engineView {s t : State} (h : Finished s) (hview : t.engineView = s.engineView) : Finished t := by
  change Finished t.engineView
  rw [hview]
  exact h

theorem stepsLeft_of_engineView {s t : State} (hview : t.engineView = s.engineView) : stepsLeft t = stepsLeft s :=
  (congrArg stepsLeft hview :)

/-- The engine's turn is progress. -/
theorem progress_of_engine {s u t : State} (hu : Finished u ∨ Decoding u ∧ stepsLeft u < stepsLeft s)
    (hview : t.engineView = u.engineView) (hreset : .reset ∉ t.pending) (hturn : s.engineHasTurn = true)
    (hbudget : stepsLeft t < stepsLeft s → budget t < budget s) : Progress s t := by
  obtain hfinished | ⟨hdecoding, hless⟩ := hu
  · exact .inl (finished_of_engineView hfinished hview)
  · rw [← stepsLeft_of_engineView hview] at hless
    refine .inr ⟨hdecoding.of_engineView hview, hreset, ?_, hbudget hless⟩
    rw [engineTurn, if_pos hturn]
    exact hless

/-- A step of the surroundings that uses up a pending event is progress. -/
theorem progress_of_surroundings {s t : State} {e : Event} {rest : List Event} (hp : s.pending = e :: rest)
    (he : e ≠ .engine) (hreset : .reset ∉ s.pending) (hdecoding : Decoding t) (hsteps : stepsLeft t = stepsLeft s)
    (hsub : t.pending.Sublist rest) : Progress s t := by
  have hnotTurn : s.engineHasTurn = false := by
    rw [State.engineHasTurn, hp]
    cases e
    case engine => exact absurd rfl he
    all_goals rfl
  have hlength := hsub.length_le
  refine .inr ⟨hdecoding, fun hmem => hreset (hp ▸ List.mem_cons_of_mem e (hsub.subset hmem)), ?_, ?_⟩
  · rw [engineTurn, hnotTurn, hsteps]
    exact Nat.le_refl _
  · refine (budget_le t).trans_lt ?_
    rw [budget, hp, List.head?_cons, if_neg (fun h => he (Option.some.inj h)), List.length_cons, hsteps]
    omega

theorem recordStep_progress {s : State} (h : Decoding s) (hreset : .reset ∉ s.pending) : Progress s (recordStep s) := by
  obtain ⟨u, hstep, hu⟩ := engineStep_progress h
  match hp : s.pending with
  | [] =>
    obtain ⟨hview, hpending⟩ := recordStep_nil hp hstep
    refine progress_of_engine hu hview (by simp [hpending]) (by rw [State.engineHasTurn, hp]) fun hless => ?_
    simp only [budget, hpending, hp]
    simpa using hless
  | e :: rest =>
    have hrest : .reset ∉ rest := fun hmem => hreset (hp ▸ List.mem_cons_of_mem e hmem)
    cases e with
    | engine =>
      obtain ⟨hview, hpending⟩ := recordStep_engine hp hstep
      refine progress_of_engine hu hview (hpending ▸ hrest) (by rw [State.engineHasTurn, hp]) fun hless => ?_
      refine (budget_le _).trans_lt ?_
      rw [budget, hpending, hp, List.head?_cons, if_pos rfl, List.length_cons]
      omega
    | host x =>
      obtain ⟨hview, hsub⟩ := recordStep_host h.busy hp (.inl ⟨x, rfl⟩)
      exact progress_of_surroundings hp nofun hreset (h.of_engineView hview) (stepsLeft_of_engineView hview) hsub
    | confirm =>
      obtain ⟨hview, hsub⟩ := recordStep_host h.busy hp (.inr rfl)
      exact progress_of_surroundings hp nofun hreset (h.of_engineView hview) (stepsLeft_of_engineView hview) hsub
    | poll =>
      obtain ⟨hview, hpending⟩ := recordStep_poll h.busy hp
      refine .inr ⟨h.of_engineView hview, by simpa [hpending] using hrest, ?_, ?_⟩
      · rw [stepsLeft_of_engineView hview, engineTurn, State.engineHasTurn, hp]
        exact Nat.le_refl _
      · have hsteps := stepsLeft_pos s
        rw [budget, budget, hpending, hp, stepsLeft_of_engineView hview]
        simp
        omega
    | reset => exact absurd (hp ▸ List.mem_cons_self) hreset
    | display x y c =>
      have hstep : step s = .next (if x < s.fbW ∧ y < s.fbH then ({ s with pending := rest } : State).putPixel x y c
          else { s with pending := rest }) := step_cons hp
      have hquiet : Decoding ({ s with pending := rest } : State) := h.of_engineView rfl
      rw [recordStep_next hstep]
      split_ifs with hin
      · exact progress_of_surroundings hp nofun hreset
          ⟨inv_putPixel hquiet.inv hin.1 hin.2 c, h.busy, loaded_frame h.loaded rfl⟩ rfl (List.Sublist.refl rest)
      · exact progress_of_surroundings hp nofun hreset hquiet rfl (List.Sublist.refl rest)

/-- The recorded run comes to the end of a decode within its budget. -/
theorem recordRun_finishes {s : State} (h : Decoding s) (hreset : .reset ∉ s.pending) :
    ∃ n, Finished (recordRun n s) ∧ engineStepsIn n s ≤ stepsLeft s ∧ n ≤ budget s := by
  induction hbudget : budget s using Nat.strong_induction_on generalizing s with
  | _ b ih =>
    have hcount (n : Nat) : engineStepsIn (n + 1) s = engineTurn s + engineStepsIn n (recordStep s) := by
      rw [engineStepsIn, engineTurn, h.busy, Bool.true_and]
    obtain hfinished | ⟨hdecoding, hreset', hsteps, hless⟩ := recordStep_progress h hreset
    · refine ⟨1, hfinished, ?_, hbudget ▸ budget_pos s⟩
      have hpos := stepsLeft_pos s
      rw [hcount, engineStepsIn, engineTurn]
      split_ifs <;> omega
    · obtain ⟨n, hend, hengine, hn⟩ := ih _ (hbudget ▸ hless) hdecoding hreset' rfl
      exact ⟨n + 1, hend, by rw [hcount]; omega, by omega⟩

/-- Settles O55: an accepted START begins a decode whose `stepsLeft` is the bound, and `recordRun_finishes` brings it to
its end. -/
theorem decodeFinishesWithinBound : Obligations.DecodeFinishesWithinBound := by
  intro s hinv hbegins hloaded hreset bound
  obtain ⟨n, ⟨hidle, hdone, hresult⟩, hengine, hn⟩ := recordRun_finishes ⟨hinv, hbegins.busy, hloaded⟩ hreset
  have hbound : stepsLeft s = bound := by
    simp [stepsLeft, State.linear, hbegins.pointer, hbegins.row, hbegins.column, bound]
  rw [hbound] at hengine
  exact ⟨n, hidle, hdone, hresult, hengine, hbound ▸ hn.trans (budget_le s)⟩

end Sys2Proof.Proofs

/-! # The container file and the assembler's fill (30_encoding.md sections 1 and 4)

Where the bytes of the header, the palette and a frame record lie and what reading them gives (R53, R66 to R68), and the
bytes of `FILL` (R79). -/

namespace Sys2Proof.Proofs

open Sys2Proof.Machine

/-! ## Big-endian byte groups (R53) -/

theorem bytesOf16_eq (v : Half) : bytesOf16 v = [BitVec.ofNat 8 (v.toNat / 256), BitVec.ofNat 8 v.toNat] := by
  rw [bytesOf16, half_highByte, half_lowByte]
  congr 2
  apply BitVec.eq_of_toNat_eq
  simp

theorem bytesOf32_eq (v : Word) :
    bytesOf32 v = [BitVec.ofNat 8 (v.toNat / 256 ^ 3), BitVec.ofNat 8 (v.toNat / 256 ^ 2),
      BitVec.ofNat 8 (v.toNat / 256 ^ 1), BitVec.ofNat 8 (v.toNat / 256 ^ 0)] := by
  have hbyte (k : Nat) : v.extractLsb' (8 * k) 8 = BitVec.ofNat 8 (v.toNat / 256 ^ k) := by
    apply BitVec.eq_of_toNat_eq
    rw [BitVec.extractLsb'_toNat, BitVec.toNat_ofNat, Nat.shiftRight_eq_div_pow, Nat.pow_mul]
  rw [← hbyte 3, ← hbyte 2, ← hbyte 1, ← hbyte 0]
  rfl

/-- Reading a big-endian u16 gives back what was written. -/
theorem be16_extract (v : Half) : be16 (v.extractLsb' 8 8) (v.extractLsb' 0 8) = v := by
  have hv := v.isLt
  apply BitVec.eq_of_toNat_eq
  rw [be16, Laws.append_toNat, BitVec.extractLsb'_toNat, BitVec.extractLsb'_toNat, Nat.shiftRight_eq_div_pow]
  omega

/-- Reading a big-endian u32 gives back what was written. -/
theorem be32_extract (v : Word) :
    be32 (v.extractLsb' 24 8) (v.extractLsb' 16 8) (v.extractLsb' 8 8) (v.extractLsb' 0 8) = v := by
  have hv := v.isLt
  apply BitVec.eq_of_toNat_eq
  simp only [be32, Laws.append_toNat, BitVec.extractLsb'_toNat, Nat.shiftRight_eq_div_pow]
  omega

/-- Byte `k` of a u32 in a file. -/
theorem bytesOf32_append_getElem? (v : Word) (rest : List Byte) {k : Nat} (hk : k < 4) :
    (bytesOf32 v ++ rest)[k]? = some (BitVec.ofNat 8 (v.toNat / 256 ^ (3 - k))) := by
  rw [bytesOf32_eq]
  obtain rfl | rfl | rfl | rfl : k = 0 ∨ k = 1 ∨ k = 2 ∨ k = 3 := by omega
  all_goals rfl

/-! ## The header (R66) -/

theorem header_length (h : Header) : h.toBytes.length = 11 := rfl

/-- The bytes of the header after the frame count. -/
theorem header_bytes (h : Header) (rest : List Byte) :
    (h.toBytes ++ rest)[4]? = some (BitVec.ofNat 8 (h.width.toNat / 256)) ∧
    (h.toBytes ++ rest)[5]? = some (BitVec.ofNat 8 h.width.toNat) ∧
    (h.toBytes ++ rest)[6]? = some (BitVec.ofNat 8 (h.height.toNat / 256)) ∧
    (h.toBytes ++ rest)[7]? = some (BitVec.ofNat 8 h.height.toNat) ∧
    (h.toBytes ++ rest)[8]? = some (BitVec.ofNat 8 (h.frameRate.toNat / 256)) ∧
    (h.toBytes ++ rest)[9]? = some (BitVec.ofNat 8 h.frameRate.toNat) ∧
    (h.toBytes ++ rest)[10]? = some h.paletteSize := by
  rw [Header.toBytes, bytesOf16_eq, bytesOf16_eq, bytesOf16_eq]
  exact ⟨rfl, rfl, rfl, rfl, rfl, rfl, rfl⟩

theorem readHeader_toBytes (h : Header) (rest : List Byte) : readHeader (h.toBytes ++ rest) = some (h, rest) := by
  change some ((⟨be32 _ _ _ _, be16 _ _, be16 _ _, be16 _ _, h.paletteSize⟩ : Header), rest) = some (h, rest)
  rw [be32_extract, be16_extract, be16_extract, be16_extract]

/-! ## The palette (R67) -/

theorem paletteBytes_cons (c : Half) (palette : List Half) :
    paletteBytes (c :: palette) = c.extractLsb' 8 8 :: c.extractLsb' 0 8 :: paletteBytes palette := rfl

theorem paletteBytes_length (palette : List Half) : (paletteBytes palette).length = 2 * palette.length := by
  induction palette with
  | nil => rfl
  | cons c palette ih =>
    rw [paletteBytes_cons, List.length_cons, List.length_cons, List.length_cons, ih]
    omega

/-- The two bytes of entry `k`, the most significant first. -/
theorem paletteBytes_getElem? {palette : List Half} {k : Nat} {c : Half} (h : palette[k]? = some c) (rest : List Byte) :
    (paletteBytes palette ++ rest)[2 * k]? = some (BitVec.ofNat 8 (c.toNat / 256)) ∧
      (paletteBytes palette ++ rest)[2 * k + 1]? = some (BitVec.ofNat 8 c.toNat) := by
  induction palette generalizing k with
  | nil => cases h
  | cons d palette ih =>
    cases k with
    | zero =>
      obtain rfl : d = c := Option.some.inj h
      have hbytes : paletteBytes (d :: palette) = bytesOf16 d ++ paletteBytes palette := rfl
      rw [hbytes, bytesOf16_eq]
      exact ⟨rfl, rfl⟩
    | succ k => exact ih h

theorem readPalette_paletteBytes (palette : List Half) (rest : List Byte) :
    readPalette palette.length (paletteBytes palette ++ rest) = some (palette, rest) := by
  induction palette with
  | nil => rfl
  | cons c palette ih =>
    rw [paletteBytes_cons, List.length_cons, List.cons_append, List.cons_append, readPalette, ih]
    simp only [be16_extract]

/-- Settles O57: the header's bytes are eleven in a row (`header_bytes`), the palette's two for each entry
(`paletteBytes_getElem?`), and the readers take them off again. -/
theorem containerReadsBackHeaderAndPalette : Obligations.ContainerReadsBackHeaderAndPalette := by
  intro h palette rest file
  have hfile : file = h.toBytes ++ (paletteBytes palette ++ rest) := List.append_assoc _ _ _
  obtain ⟨h4, h5, h6, h7, h8, h9, h10⟩ := header_bytes h (paletteBytes palette ++ rest)
  rw [hfile]
  refine ⟨header_length h, paletteBytes_length palette, fun k hk => ?_, ⟨h4, h5⟩, ⟨h6, h7⟩, ⟨h8, h9⟩, h10,
    fun k colour hcolour => ⟨rfl, ?_, ?_⟩, readHeader_toBytes h _, readPalette_paletteBytes palette rest⟩
  · exact bytesOf32_append_getElem? h.frameCount _ hk
  · rw [← (paletteBytes_getElem? hcolour rest).1,
      List.getElem?_append_right (by rw [header_length]; omega), header_length]
    congr 1
    omega
  · rw [← (paletteBytes_getElem? hcolour rest).2,
      List.getElem?_append_right (by rw [header_length]; omega), header_length]
    congr 1
    omega

/-! ## Frame records (R68) -/

theorem readFrame_frameBytes {payload : List Byte} (hlength : payload.length < 2 ^ 32) (rest : List Byte) :
    readFrame (frameBytes payload ++ rest) = some (BitVec.ofNat 32 payload.length, payload, rest) := by
  have hsize : (BitVec.ofNat 32 payload.length).toNat = payload.length := Nat.mod_eq_of_lt hlength
  rw [frameBytes, List.append_assoc]
  simp only [bytesOf32, List.cons_append, List.nil_append, readFrame, be32_extract, hsize]
  simp

/-- Record `n + 1` starts where record `n` ends. -/
theorem frameOffset_succ {p n : Nat} {sizes : List Nat} {size : Nat} (h : sizes[n]? = some size) :
    frameOffset p sizes (n + 1) = frameOffset p sizes n + 4 + size := by
  rw [frameOffset, frameOffset, List.take_add_one, h]
  simp
  omega

/-- Settles O58: a record is a big-endian length and its payload, and the offsets add the sizes up. -/
theorem frameRecordsFollowEachOther : Obligations.FrameRecordsFollowEachOther := by
  refine ⟨fun payload rest hlength => ⟨fun k hk => ?_, fun k hk => ?_, readFrame_frameBytes hlength rest⟩,
    fun p n sizes size hsize => ⟨rfl, frameOffset_succ hsize⟩⟩
  · have hbyte := bytesOf32_append_getElem? (BitVec.ofNat 32 payload.length) (payload ++ rest) hk
    rw [BitVec.toNat_ofNat, Nat.mod_eq_of_lt hlength] at hbyte
    rwa [frameBytes, List.append_assoc]
  · have hsize : (bytesOf32 (BitVec.ofNat 32 payload.length)).length = 4 := rfl
    rw [frameBytes, List.append_assoc, List.getElem?_append_right (by rw [hsize]; omega), hsize, Nat.add_sub_cancel_left,
      List.getElem?_append_left hk]

/-! ## FILL (R79) -/

/-- `m` runs of 255 of one index. -/
def fullRuns (m : Nat) (i : Byte) : List Byte := (List.replicate m [255, i]).flatten

theorem fullRuns_succ (m : Nat) (i : Byte) (rest : List Byte) :
    fullRuns (m + 1) i ++ rest = 255 :: i :: (fullRuns m i ++ rest) := rfl

theorem fullRuns_length (m : Nat) (i : Byte) : (fullRuns m i).length = 2 * m := by
  simp [fullRuns, Nat.mul_comm]

theorem pixelStream_fullRuns (m : Nat) (i : Byte) (rest : List Byte) :
    pixelStream (fullRuns m i ++ rest) = List.replicate (255 * m) i ++ pixelStream rest := by
  induction m with
  | zero => rfl
  | succ m ih =>
    rw [fullRuns_succ, pixelStream, ih, ← List.append_assoc, List.replicate_append_replicate]
    congr 2
    change 255 + 255 * m = 255 * (m + 1)
    omega

/-- The count bytes and the index bytes of the runs of 255. -/
theorem fullRuns_getElem? {m k : Nat} (hk : k < m) (i : Byte) (rest : List Byte) :
    (fullRuns m i ++ rest)[2 * k]? = some 255 ∧ (fullRuns m i ++ rest)[2 * k + 1]? = some i := by
  induction m generalizing k with
  | zero => exact absurd hk (Nat.not_lt_zero k)
  | succ m ih =>
    rw [fullRuns_succ]
    cases k with
    | zero => exact ⟨rfl, rfl⟩
    | succ k => exact ih (Nat.lt_of_succ_lt_succ hk)

/-- The run that FILL ends with, if the count is no multiple of 255. -/
def lastRun (n : Nat) (i : Byte) : List Byte :=
  if n % 255 ≠ 0 then [BitVec.ofNat 8 (n % 255), i] else []

theorem fillBytes_eq (n : Nat) (i : Byte) : fillBytes n i = fullRuns (n / 255) i ++ lastRun n i := rfl

theorem pixelStream_lastRun (n : Nat) (i : Byte) : pixelStream (lastRun n i) = List.replicate (n % 255) i := by
  unfold lastRun
  split_ifs with hrest
  · have hcount : (BitVec.ofNat 8 (n % 255)).toNat = n % 255 := Nat.mod_eq_of_lt (by omega)
    change List.replicate (BitVec.ofNat 8 (n % 255)).toNat i ++ [] = _
    rw [hcount, List.append_nil]
  · rw [not_not.mp hrest]
    rfl

theorem lastRun_length (n : Nat) (i : Byte) : (lastRun n i).length = 2 * ((n % 255 + 254) / 255) := by
  unfold lastRun
  split_ifs with hrest
  · rw [List.length_cons, List.length_singleton]
    omega
  · rw [List.length_nil]
    omega

/-- FILL stands for its count of pixels of its index (R79). -/
theorem pixelStream_fillBytes (n : Nat) (i : Byte) : pixelStream (fillBytes n i) = List.replicate n i := by
  rw [fillBytes_eq, pixelStream_fullRuns, pixelStream_lastRun, List.replicate_append_replicate, Nat.div_add_mod]

/-- Byte `j` of the last run. -/
theorem fillBytes_last (n : Nat) (i : Byte) (j : Nat) : (fillBytes n i)[2 * (n / 255) + j]? = (lastRun n i)[j]? := by
  rw [fillBytes_eq, List.getElem?_append_right (by rw [fullRuns_length]; omega), fullRuns_length,
    Nat.add_sub_cancel_left]

/-- Settles O60: FILL is runs of 255 (`fullRuns`) and a last run, so its pixels and its bytes are those of the two
parts. -/
theorem fillCoversItsPixels : Obligations.FillCoversItsPixels := by
  intro n i
  refine ⟨?_, pixelStream_fillBytes n i, ?_, fun k hk => (fullRuns_getElem? hk i _).1, fun hrest => ?_,
    fun k hk => ?_, rfl, rfl⟩
  · rw [← length_pixelStream, pixelStream_fillBytes, List.length_replicate]
  · rw [fillBytes_eq, List.length_append, fullRuns_length, lastRun_length]
    omega
  · have hlast := fillBytes_last n i 0
    rwa [lastRun, if_pos hrest] at hlast
  · obtain hfull | hlast : k < n / 255 ∨ k = n / 255 ∧ n % 255 ≠ 0 := by omega
    · exact (fullRuns_getElem? hfull i _).2
    · obtain ⟨rfl, hrest⟩ := hlast
      rw [fillBytes_last, lastRun, if_pos hrest]
      rfl

end Sys2Proof.Proofs

/-! # The canvas tiled by its blocks (42_blit.md section 2) -/

namespace Sys2Proof.Proofs

open Sys2Proof.Machine

/-- On one axis, every place of the image lies in the cell of some logical place. -/
theorem exists_cell {off n w v : Nat} (hn : 0 < n) (hlow : off ≤ v) (hhigh : v < off + w * n) :
    ∃ a, a < w ∧ off + a * n ≤ v ∧ v < off + a * n + n := by
  have hle := Nat.div_mul_le_self (v - off) n
  have hlt := Nat.lt_div_mul_add (a := v - off) hn
  exact ⟨(v - off) / n, (Nat.div_lt_iff_lt_mul hn).mpr (by omega), by omega, by omega⟩

/-- Settles O53: cells do not overlap (`inBlock_unique`), and on each axis they cover the image (`exists_cell`). -/
theorem blocksTileImageRectangle : Obligations.BlocksTileImageRectangle := by
  refine fun s hscale => ⟨fun px py px' py' x y => inBlock_unique, fun x y => ⟨fun himage => ?_, ?_⟩⟩
  · obtain ⟨hx, hx', hy, hy'⟩ := himage
    obtain ⟨px, hpx, hcolumn⟩ := exists_cell hscale hx hx'
    obtain ⟨py, hpy, hrow⟩ := exists_cell hscale hy hy'
    exact ⟨px, py, hpx, hpy, hcolumn.1, hcolumn.2, hrow.1, hrow.2⟩
  · rintro ⟨px, py, hpx, hpy, hin⟩
    exact inImage_of_inBlock hpx hpy hin

end Sys2Proof.Proofs

/-! # What comes next, and what it does (20_memory.md sections 3 and 4, 41_rle_engine.md section 3)

A step by what is pending, as one equation per event; the two payload instructions within FETCH (R105 to R107). -/

namespace Sys2Proof.Proofs

open Sys2Proof.Machine

/-! ## A step by what is pending (R61) -/

/-- Settles O8: the step of a pending host transaction is `exec` of its decoding. -/
theorem stepPerformsDecodedTransaction : Obligations.StepPerformsDecodedTransaction :=
  fun _ _ _ hp => step_cons hp

/-- Settles O9: the engine has the turn when nothing or its own event is pending. -/
theorem engineTurnIsEngineStep : Obligations.EngineTurnIsEngineStep :=
  fun _ => ⟨step_nil, fun _ hp => step_cons hp⟩

/-- Settles O11: the engine's turn while IDLE is the state itself. -/
theorem idleEngineChangesNothing : Obligations.IdleEngineChangesNothing :=
  fun _ hidle => ⟨engineStep_idle hidle, fun hp => (step_nil hp).trans (engineStep_idle hidle)⟩

/-- Settles O39: the step of a pending RST is `resetBy`. -/
theorem resetClearsAllButFramebuffer : Obligations.ResetClearsAllButFramebuffer :=
  fun _ _ hp => step_cons hp

/-- A POLL reads STATUS, and while BUSY it is pending again after an engine's turn (R81, log 8). -/
theorem step_poll {s : State} {rest : List Event} (hp : s.pending = .poll :: rest) :
    step s = .next (({ s with pending := if s.busy then .engine :: .poll :: rest else rest } : State).answer
      (.word (statusWord s))) := by
  rw [step_cons hp]
  cases hbusy : s.busy <;> simp [runEvent, exec, execRdStatus, State.readWord, hbusy, statusWord, State.answer]

/-- A confirmation reads STATUS, and without a valid configuration nothing of the host's stays pending (R148, log 28). -/
theorem step_confirm {s : State} {rest : List Event} (hp : s.pending = .confirm :: rest) :
    step s = .next (({ s with pending := if s.cfgValid then rest else rest.filter fun e => !e.isHost } : State).answer
      (.word (statusWord s))) := by
  rw [step_cons hp]
  cases hvalid : s.cfgValid <;>
    simp [runEvent, exec, execRdStatus, State.readWord, hvalid, statusWord, State.answer, State.stopHost]

/-- Settles O16: `step_poll` and `step_confirm`; what the confirmation leaves pending is a filter of what was. -/
theorem pollRepeatsUntilIdle : Obligations.PollRepeatsUntilIdle := by
  refine fun s rest => ⟨fun hp => ⟨_, step_poll hp, rfl, rfl, fun hidle => ?_, fun hbusy => ?_⟩,
    fun hp => ⟨_, step_confirm hp, rfl, rfl, fun hvalid => ?_, fun hinvalid => ?_⟩⟩
  · simp [hidle]
  · simp [hbusy]
  · simp [hvalid]
  · rw [State.answer_pending, hinvalid, if_neg Bool.false_ne_true]
    refine ⟨fun e he => ?_, List.filter_sublist, fun e he => List.count_filter (by simp [he])⟩
    simpa using (List.mem_filter.mp he).2

/-! ## FETCH and the payload instructions (R105 to R107) -/

/-- FETCH of two written bytes runs what they decode to, with RP moved past them. -/
theorem engineFetch_exec {s : State} {c i : Byte} (hc : Memory.read s.buf s.rp.toNat = some c)
    (hi : Memory.read s.buf (s.rp.toNat + 1) = some i) :
    engineFetch s = exec (decodeRun s.actPalSize c i) s.passRun := by
  simp [engineFetch, hc, hi]

/-- Settles O10: `engineFetch_exec`, and R72 for which of the two instructions it is. -/
theorem fetchRunsDecodedRun : Obligations.FetchRunsDecodedRun := by
  intro s c i hbusy hrem hrp hc hi
  have hfetch : engineStep s = exec (decodeRun s.actPalSize c i) s.passRun :=
    (engineStep_fetch hbusy hrem hrp).trans (engineFetch_exec hc hi)
  refine ⟨hfetch, fun hlt => ?_, fun hle => ?_⟩
  · rw [hfetch, decodeRun_of_lt hlt, State.passRun]
  · rw [hfetch, decodeRun_of_le hle, State.passRun]

theorem exec_run (c i : Byte) (s : State) : exec (.run c i) s = .next (s.loadRun c i) := rfl

theorem exec_skip (c i : Byte) (s : State) : exec (.skip c i) s = .next (s.advance c.toNat) := rfl

/-- A RUN of count 0 changes nothing when no run is in progress (R73, log 26). -/
theorem loadRun_zero {s : State} (hrem : s.rem = 0) (i : Byte) : s.loadRun 0 i = s := by
  rw [State.loadRun, if_pos rfl, ← hrem]

/-- Settles O17: `loadRun` is the RUN; at count 0 a RUN loads nothing (`loadRun_zero`) and a SKIP moves nowhere
(`advance_zero`). -/
theorem runLoadsIndexAndCount : Obligations.RunLoadsIndexAndCount := by
  refine fun c i s => ⟨fun hcount => ?_, ?_, fun hbusy hrem hrp hcolumn hc hi => ?_⟩
  · rw [exec_run, State.loadRun, if_neg hcount]
  · rw [exec_run, State.loadRun, if_pos rfl]
  · rw [engineStep_fetch hbusy hrem hrp]
    obtain hlt | hle := Nat.lt_or_ge i.toNat s.actPalSize.toNat
    · rw [engineFetch_run hc hi hlt, loadRun_zero (s := s.passRun) hrem, State.passRun]
    · rw [engineFetch_skip hc hi hle, show (0 : Byte).toNat = 0 from rfl, advance_zero (s := s.passRun) hcolumn,
        State.passRun]

/-- Settles O18: `advance` is the SKIP, and the two registers hold the column and the row whole. -/
theorem skipAdvancesCursorOnly : Obligations.SkipAdvancesCursorOnly := by
  refine fun c i s => ⟨exec_skip c i s, fun hwidth hposition => ⟨_, exec_skip c i s, ?_, ?_, rfl⟩⟩
  · have hcolumn := Nat.mod_lt (s.linear + c.toNat) hwidth
    exact Nat.mod_eq_of_lt (hcolumn.trans s.actWidth.isLt)
  · have hrow := Nat.div_le_self (s.linear + c.toNat) s.actWidth.toNat
    exact Nat.mod_eq_of_lt (hrow.trans_lt hposition)

/-! ## A placed word (log 11, log 12) -/

/-- A placed run is fetched from the two bytes it was placed in. -/
theorem step_placeRun {s : State} (hwf : Memory.wf s.buf) (c i : Byte) :
    step (s.placeRun c i) =
      exec (decodeRun (tablePalSize s.paletteMax) c i) { s.placeRun c i with rp := 2, pending := s.pending } := by
  have hrp : (0 : Word) ≠ 2 := by decide
  have hpair : Memory.wf ([(0, c), (1, i)] : Memory 8) := by simp
  have hstep : step (s.placeRun c i) = engineStep { s.placeRun c i with pending := s.pending } :=
    step_cons (show (s.placeRun c i).pending = .engine :: s.pending from rfl)
  rw [hstep, engineStep_fetch rfl rfl hrp, engineFetch_exec (c := c) (i := i)]
  · rfl
  · exact (Memory.read_overlay hpair hwf 0).trans rfl
  · exact (Memory.read_overlay hpair hwf 1).trans rfl

/-- Settles O7: a transaction is put where `step` takes it, and a run where FETCH does (`step_placeRun`). -/
theorem placedWordRunsNext : Obligations.PlacedWordRunsNext := by
  refine ⟨fun s nbits w i hi => ⟨fun hbus => ?_, fun hrun hwf => ?_⟩, fun _ _ => rfl⟩
  · rw [decodeTableWordFor, if_neg (Nat.not_le.mpr hbus)] at hi
    rw [State.withFetchWord, State.placeWord, if_neg (Nat.not_le.mpr hbus), ← Option.some.inj hi]
    exact step_cons (show (s.placeTxn (tableTxn w)).pending = .host (tableTxn w) :: s.pending from rfl)
  · rw [decodeTableWordFor, if_pos hrun] at hi
    rw [State.withFetchWord, State.placeWord, if_pos hrun, ← Option.some.inj hi]
    exact step_placeRun hwf _ _

end Sys2Proof.Proofs

/-! # Host operations: commands, dropped writes and reads (40_host_ops.md) -/

namespace Sys2Proof.Proofs

open Sys2Proof.Machine

/-! ## Commands and dropped writes (R82, R97) -/

theorem exec_commitStart (ig : BitVec 30) (s : State) :
    exec (.commitStart ig) s = .next (s.hostWrite fun s => s.commit.start) := rfl

/-- Settles O24: on an idle VPDEC each command has its effect, and COMMIT leaves it idle. -/
theorem commitStartIsCommitThenStart : Obligations.CommitStartIsCommitThenStart := by
  intro ig s hidle
  have hidle' : s.commit.busy = false := (commit_busy s).trans hidle
  refine ⟨s.commit, s.commit.start, ?_, ?_, ?_⟩
  · rw [exec_commit, next_hostWrite_idle _ hidle]
  · rw [exec_start, next_hostWrite_idle _ hidle']
  · rw [exec_commitStart, next_hostWrite_idle _ hidle]

/-- Settles O25: the nine are writes under the busy-write rule; a write past the last palette entry is none. -/
theorem busyDropsProtectedWrites : Obligations.BusyDropsProtectedWrites := by
  intro s ig v i j b dropped
  refine ⟨fun hbusy => ?_, fun hpast => congrArg Host.Outcome.next (if_neg (Nat.not_lt.mpr hpast))⟩
  have hdrop (effect : State → State) : .next (s.hostWrite effect) = dropped := next_hostWrite_busy effect hbusy
  exact ⟨hdrop _, hdrop _, hdrop _, hdrop _, hdrop _, hdrop _, hdrop _,
    fun hi => (exec_wrPal_of_lt hi v).trans (hdrop _), hdrop _⟩

/-! ## Reads (R60) -/

/-- A read of a palette offset past the last entry returns 0 (log 29). -/
theorem exec_rdPal_past {i : BitVec 4} {s : State} (hi : s.paletteMax ≤ i.toNat) : exec (.rdPal i) s = s.readWord 0 :=
  if_neg (Nat.not_lt.mpr hi)

/-- A read answers with a value that does not depend on an answer given before, and does nothing else. -/
theorem exec_read {i : Instr} {s t : State} (hread : IsRead i) (h : exec i s = .next t) :
    ∃ r, t = s.answer r ∧ ∀ q, exec i (s.answer q) = .next ((s.answer q).answer r) := by
  cases hread
  case pal k =>
    obtain hin | hpast := Nat.lt_or_ge k.toNat s.paletteMax
    · cases hv : Memory.read s.pal k.toNat with
      | none =>
        rw [exec_rdPal_unwritten hin hv] at h
        cases h
      | some v =>
        rw [exec_rdPal_written hin hv] at h
        exact ⟨_, (Host.Outcome.next.inj h).symm, fun q => exec_rdPal_written (s := s.answer q) hin hv⟩
    · rw [exec_rdPal_past hpast] at h
      exact ⟨_, (Host.Outcome.next.inj h).symm, fun q => exec_rdPal_past (s := s.answer q) hpast⟩
  case buf j =>
    cases hb : Memory.read s.buf j.toNat with
    | none =>
      rw [exec_rdbBuf_unwritten hb] at h
      cases h
    | some b =>
      rw [exec_rdbBuf_written hb] at h
      exact ⟨_, (Host.Outcome.next.inj h).symm, fun q => exec_rdbBuf_written (s := s.answer q) hb⟩
  all_goals exact ⟨_, (Host.Outcome.next.inj h).symm, fun _ => rfl⟩

/-- Settles O35: a read is an `answer` (`exec_read`), and a second `answer` takes the place of the first. -/
theorem readsHaveNoSideEffect : Obligations.ReadsHaveNoSideEffect := by
  refine ⟨fun i s t hread h => ?_, fun k s hpast => exec_rdPal_past hpast⟩
  obtain ⟨r, rfl, hagain⟩ := exec_read hread h
  exact ⟨rfl, hagain r⟩

/-! ## After reset (R146, R147) -/

/-- Settles O40: `State.reset` has these values, and its START is refused as without a configuration. -/
theorem resetStateIsZeroAndRefusesStart : Obligations.ResetStateIsZeroAndRefusesStart := by
  refine ⟨by decide, rfl, rfl, rfl, rfl, rfl, rfl, rfl, rfl, rfl, rfl, rfl, rfl, rfl, rfl, rfl, rfl, rfl, rfl, rfl,
    Memory.read_nil, Memory.read_nil, fun ig => ⟨_, exec_start_noCfg rfl rfl ig, rfl, rfl, by decide⟩⟩

end Sys2Proof.Proofs
